-- ==== Sys2Proof/Word.lean ====
section
/-!
DEFINITION. The word types of the FXU (00_scope.md R13, 10_state.md R38, R39): a register and a word of
FR, FI, SINE, HIST, SIDE and LUT have 32 bits, a sample word has 16, the result of FX2F has 64.
-/
namespace Sys2Proof

/-- A 32-bit register or memory word; read as a signed number of raw units it is a Fix (R13). -/
abbrev Word := BitVec 32

/-- A 16-bit sample word: error flag in bit 15, unsigned reading in bits 14:0 (R39). -/
abbrev Sample := BitVec 16

/-- A 64-bit pattern, the IEEE 754 binary64 result of FX2F (R108). -/
abbrev Pattern64 := BitVec 64

end Sys2Proof
end

