-- ==== Sys2Proof/Syntax.lean ====
section
/-!
DEFINITION. The eight commands of the FXU (30_encoding.md R86), one constructor per row of
spec/opcode_table.json. No command carries an operand field (R84): every operand comes from OPA or OPB.
-/
namespace Sys2Proof

/-- A command of the FXU, what plays the role of an instruction (R3, R80). -/
inductive Instr where
  /-- `FXMUL`, fixed-point multiply (R100). -/
  | fxmul
  /-- `FXDIV`, fixed-point divide (R103). -/
  | fxdiv
  /-- `I2FX`, integer to fixed (R106). -/
  | i2fx
  /-- `FX2F`, fixed to float (R108). -/
  | fx2f
  /-- `ESTIMATE`, one estimation pass (R120). -/
  | estimate
  /-- `MAPFREQ`, frequency to note and cents (R178). -/
  | mapfreq
  /-- `SETREF`, reference pitch and table rebuild (R175). -/
  | setref
  /-- `SETBEAT`, tempo or subdivision change (R194). -/
  | setbeat
deriving DecidableEq, Repr

end Sys2Proof
end

