-- ==== Sys2Proof/Decode.lean ====
section
/-!
DEFINITION. The decoder of a command word and, after it, the encoder (30_encoding.md R80, R81, R86, R94).
-/
namespace Sys2Proof

/-- Why a word written to CMD is no command (30_encoding.md R87). -/
inductive DecodeReject where
  /-- A bit of the reserved field 31:8 is set. -/
  | reservedBits
  /-- The opcode is none of the eight listed. -/
  | unlistedOpcode (opcode : BitVec 8)
deriving DecidableEq, Repr

/-- The opcode field, bits 7:0 of a command word (R81). -/
def opcodeField (v : Word) : BitVec 8 := v.extractLsb' 0 8

/-- The field `zero`, bits 31:8 of a command word (R81). -/
def zeroField (v : Word) : BitVec 24 := v.extractLsb' 8 24

/-- The opcode map (R86). -/
def decodeOpcode (op : BitVec 8) : Except DecodeReject Instr :=
  if op = 0x10 then .ok .fxmul
  else if op = 0x11 then .ok .fxdiv
  else if op = 0x12 then .ok .i2fx
  else if op = 0x13 then .ok .fx2f
  else if op = 0x20 then .ok .estimate
  else if op = 0x30 then .ok .mapfreq
  else if op = 0x31 then .ok .setref
  else if op = 0x40 then .ok .setbeat
  else .error (.unlistedOpcode op)

/-- `Decode(v)`, total on every 32-bit word (R94). -/
def decode (v : Word) : Except DecodeReject Instr :=
  if zeroField v = 0 then decodeOpcode (opcodeField v) else .error .reservedBits

/-- The command read from an instruction of `nbits` bits whose bits are `w`; a command is one 32-bit word (R80),
so bits above 31 belong to none. -/
def decodeTableWord (nbits w : Nat) : Option Instr :=
  if w % 2 ^ nbits < 2 ^ 32 then
    match decode (BitVec.ofNat 32 (w % 2 ^ nbits)) with
    | .ok i => some i
    | .error _ => none
  else none

/-- The opcode of a command (R86). -/
def opcodeOf : Instr → BitVec 8
  | .fxmul => 0x10
  | .fxdiv => 0x11
  | .i2fx => 0x12
  | .fx2f => 0x13
  | .estimate => 0x20
  | .mapfreq => 0x30
  | .setref => 0x31
  | .setbeat => 0x40

/-- The command word: the opcode zero-extended to 32 bits (R81). -/
def encode (i : Instr) : Word := (opcodeOf i).zeroExtend 32

end Sys2Proof
end

