-- ==== Sys2Proof/Config.lean ====
section
/-!
DEFINITION. The configuration of one FXU: the parameters of 00_scope.md R8 as plain data, and the free value, a
constant with no body, so that nothing can be proved of what it is.
-/
namespace Sys2Proof

/-- The kind of one sub-beat of a tone pattern (10_state.md R47). -/
inductive ToneKind where
  | high
  | low
  | silent
deriving DecidableEq, Repr

/-- A function of two natural numbers, the absolute values of `re` and `im`, written out as an expression over
naturals (subtraction stops at 0, division by 0 gives 0). With `lit` and `ifLe` every function on a finite range can be
written (log entry 5). -/
inductive MagExpr where
  | reAbs
  | imAbs
  | lit (n : Nat)
  | add (x y : MagExpr)
  | sub (x y : MagExpr)
  | mul (x y : MagExpr)
  | div (x y : MagExpr)
  | sqrt (x : MagExpr)
  /-- The third if the first is at most the second, else the fourth. -/
  | ifLe (x y yes no : MagExpr)
deriving DecidableEq, Repr

/-- The argument MAG (R8, 41_estimate.md R131), the magnitude function the unit is built with: the decided default, the
exact integer square root, or a replacement, given as an expression (log entry 5). -/
inductive MagUnit where
  | exactRoot
  | replacement (body : MagExpr)
deriving DecidableEq, Repr

/-- The parameters of R8. They never change while the machine runs (R56). -/
structure Config where
  /-- `LOG2N`: the buffers hold `2 ^ log2n` words. -/
  log2n : Nat
  /-- `SAMPLE_RATE_HZ`. -/
  sampleRateHz : Nat
  /-- `ADC_BITS`, on which no rule's effect depends. -/
  adcBits : Nat
  /-- `NOISE_FLOOR`, a raw Fix value. -/
  noiseFloor : Nat
  /-- `ROLLING_ITEMS`. -/
  rollingItems : Nat
  /-- `ROLLING_OUTLIER_THRESH`, called THRESH. -/
  outlierThresh : Nat
  /-- `NUM_OCTAVES`. -/
  numOctaves : Nat
  /-- `TONE_MS`. -/
  toneMs : Nat
  /-- `SINE`, the ROM words as signed raw numbers, index 0 first. -/
  sine : List Int
  /-- `PATTERN`, one row per beat selector, row 0 (NONE) empty. -/
  pattern : List (List ToneKind)
  /-- `MAG`. -/
  mag : MagUnit
deriving DecidableEq, Repr

/-- FREE VALUE (log entry 4). What a sample word holds that nothing has written since the latest Reset
(10_state.md R39, 93_implementation_defined.md P5): it may differ from Reset to Reset, bank to bank and word to
word. The arguments are the number of Resets so far, the bank number and the word's index. -/
opaque Config.unwrittenSample : Nat → Bool → Nat → Sample

end Sys2Proof
end

