-- ==== Sys2Proof/Machine/Arith.lean ====
section
/-!
DEFINITION. The primitives of the spec's pseudocode (00_scope.md R14). Arithmetic is over the unbounded
integers; a narrowing is written `wrap32`.
-/
namespace Sys2Proof.Machine

/-- `sext(w)`: the signed integer a word stands for. -/
def sext (w : Word) : Int := w.toInt

/-- `zext(w)`: the unsigned integer a word stands for. -/
def zext (w : Word) : Nat := w.toNat

/-- `wrap32(v)`: the word whose unsigned reading is `v mod 2^32`. -/
def wrap32 (v : Int) : Word := BitVec.ofInt 32 v

/-- `asr(v, n)`: `floor(v / 2^n)`. -/
def asr (v : Int) (n : Nat) : Int := v / ((2 ^ n : Nat) : Int)

/-- `shl(v, n)`: `v × 2^n`. -/
def shl (v : Int) (n : Nat) : Int := v * ((2 ^ n : Nat) : Int)

/-- `tdiv(a, b)`: the quotient rounded toward zero, used only with `b ≠ 0`. -/
def tdiv (a b : Int) : Int := a.tdiv b

/-- `udiv(a, b)`: `floor(a / b)` of naturals, used only with `b > 0`. -/
def udiv (a b : Nat) : Nat := a / b

/-- `floordiv(a, b)`, used only with `b > 0`. -/
def floordiv (a b : Int) : Int := a / b

/-- `a mod b` in `0 .. b − 1`, used only with `b > 0`. -/
def floormod (a b : Int) : Int := a % b

/-- `msb(v)`, for `v ≥ 1`: the largest `p` with `2^p ≤ v`. -/
def msb (v : Nat) : Nat := v.log2

/-- The bits of the integer square root of `v` below bit `b`, `s` being the root found so far. -/
def isqrtBits (v : Nat) : Nat → Nat → Nat
  | 0, s => s
  | b + 1, s => if (s + 2 ^ b) * (s + 2 ^ b) ≤ v then isqrtBits v b (s + 2 ^ b) else isqrtBits v b s

/-- `isqrt(v)`: the largest `s` with `s² ≤ v`. -/
def isqrt (v : Nat) : Nat := isqrtBits v (v.log2 / 2 + 1) 0

/-- The reversal of the low `bits` bits of `m`: bit `i` moves to place `bits − 1 − i` (41_estimate.md R127). -/
def revBits : Nat → Nat → Nat
  | 0, _ => 0
  | bits + 1, m => m % 2 * 2 ^ bits + revBits bits (m / 2)

end Sys2Proof.Machine
end

