-- ==== Sys2Proof/Machine/Params.lean ====
section
/-!
DEFINITION. Fixed and derived constants (00_scope.md R11, R12), the ROMs (10_state.md R41, R46, R47) and the
reference configuration REFCFG (00_scope.md R10).
-/
namespace Sys2Proof.Machine

/-- `ONE`, the Fix 1.0 (R11). -/
def fixOne : Word := 0x00008000

/-- `K_DEV`, 0.3 truncated to 15 fraction bits (R11). -/
def kDev : Word := 0x00002666

/-- `LOWSIG`, the Fix −1.0, the low-signal sentinel (R11, R135). -/
def lowSig : Word := 0xFFFF8000

/-- `NODATA`, the no-buffer sentinel (R11, R135). -/
def noData : Word := 0x00000000

/-- `N = 2^LOG2N`, the words of a buffer (R12). -/
def bufLen (c : Config) : Nat := 2 ^ c.log2n

/-- `BIN_HZ`, the raw Fix value of one bin in hertz (R12). -/
def binHz (c : Config) : Nat := c.sampleRateHz * 2 ^ (15 - c.log2n)

/-- `LUT_LEN` (R12). -/
def lutLen (c : Config) : Nat := 12 * c.numOctaves

/-- `SINE[k]` as a signed number; only read with `k < N` (R41, R78). -/
def sineAt (c : Config) (k : Nat) : Int := c.sine.getD k 0

/-- The ROM `SEMI` (R46): `2^(s/12)` in unsigned 2.30 format. -/
def semiRom : List Nat :=
  [0x40000000, 0x43CE3E4B, 0x47D66B0F, 0x4C1BF829, 0x50A28BE6, 0x556E0424,
   0x5A82799A, 0x5FE4435E, 0x6597FA95, 0x6BA27E65, 0x7208F81D, 0x78D0DF9C]

/-- `SEMI[s]`, `s` in 0..11. -/
def semiAt (s : Nat) : Nat := semiRom.getD s 0

/-- The row of `PATTERN` for a beat selector (R47). -/
def patternRow (c : Config) (sel : Nat) : List ToneKind := c.pattern.getD sel []

/-- `LEN[sel]`, the sub-beats of a pattern (R47). -/
def patternLen (c : Config) (sel : Nat) : Nat := (patternRow c sel).length

/-- The table of R41 for N = 64, eight entries a line as the rule lists them. -/
def sineRom64 : List Int :=
  [     0,   3212,   6393,   9512,  12540,  15447,  18205,  20788,
    23170,  25330,  27246,  28899,  30274,  31357,  32138,  32610,
    32768,  32610,  32138,  31357,  30274,  28899,  27246,  25330,
    23170,  20788,  18205,  15447,  12540,   9512,   6393,   3212,
        0,  -3212,  -6393,  -9512, -12540, -15447, -18205, -20788,
   -23170, -25330, -27246, -28899, -30274, -31357, -32138, -32610,
   -32768, -32610, -32138, -31357, -30274, -28899, -27246, -25330,
   -23170, -20788, -18205, -15447, -12540,  -9512,  -6393,  -3212]

/-- A pattern that accents its first sub-beat and then plays `lows` low ones. -/
def accented (lows : Nat) : List ToneKind := .high :: List.replicate lows .low

/-- The default tone patterns (R47), row 0 being NONE, which has none. -/
def defaultPattern : List (List ToneKind) :=
  [[], [.low], accented 0, accented 1, accented 2, accented 3, accented 4, accented 5,
   accented 6, accented 7, accented 8, accented 1, accented 2, [.high, .silent, .low],
   accented 3, [.high, .silent, .silent, .low]]

/-- REFCFG, the reference configuration (R10). -/
def refConfig : Config where
  log2n := 6
  sampleRateHz := 1760
  adcBits := 12
  noiseFloor := 327680
  rollingItems := 8
  outlierThresh := 3
  numOctaves := 8
  toneMs := 25
  sine := sineRom64
  pattern := defaultPattern
  mag := .exactRoot

end Sys2Proof.Machine
end

