-- ==== Sys2Proof/Machine/State.lean ====
section
/-!
DEFINITION. The state of the FXU (10_state.md R57), the events that drive it (00_scope.md R17), the reasons a
step of the model can stop, and the state after Reset (70_reset_and_hazards.md R240).
-/
namespace Sys2Proof.Machine

/-- One event, one atomic step of the machine (00_scope.md R17). Register numbers, indices and data are as in
30_encoding.md R91. -/
inductive Event where
  /-- `Reset`, from the platform (R240). -/
  | reset
  /-- `HostWrite(r, v)` (10_state.md R35). -/
  | hostWrite (r : Nat) (v : Word)
  /-- `HostRead(r)` (10_state.md R35, R37). -/
  | hostRead (r : Nat)
  /-- `AcqWrite(k, w)`, from the acquisition interface (20_memory.md R68). -/
  | acqWrite (k : Nat) (w : Sample)
  /-- `AcqDone` (20_memory.md R70). -/
  | acqDone
  /-- `Tick`, from the platform (44_beat_scheduler.md R197). -/
  | tick
deriving DecidableEq, Repr

/-- A RAM space of 32-bit words (10_state.md R38). -/
inductive RamSpace where
  | fr
  | fi
  | hist
  | side
  | lut
deriving DecidableEq, Repr

/-- A memory as the list of its listed words, each with its index. Canonical: indices strictly rising, and no entry
equal to what an unlisted index reads as (log entry 6). The cell is the spec's word, not a byte (20_memory.md R61). -/
abbrev Mem (w : Nat) := List (Nat × BitVec w)

/-- The RAM of the FXU (10_state.md R38). -/
structure Memory where
  bank0 : Mem 16
  bank1 : Mem 16
  fr : Mem 32
  fi : Mem 32
  hist : Mem 32
  side : Mem 32
  lut : Mem 32
deriving DecidableEq, Repr

/-- The three causes of the FXU's fatal fault (60_exceptions.md R216). -/
inductive FatalCause where
  | divz
  | badSubdiv
  | illCmd
deriving DecidableEq, Repr

/-- The state of the FXU, the record of 10_state.md R57, and after it the model's own fields. A 1-bit item is a
Bool, `back = true` standing for BACK = 1. -/
structure State where
  opa : Word
  opb : Word
  resl : Word
  resh : Word
  ready : Bool
  back : Bool
  fatal : Bool
  fcode : BitVec 4
  samperr : Bool
  maprange : Bool
  rkind : BitVec 2
  toneOn : Bool
  toneHigh : Bool
  beatArmed : Bool
  toffArmed : Bool
  errcnt : Word
  dcmag : Word
  peakbin : Word
  peakmag : Word
  est : Word
  ravg : Word
  rdev : Word
  note : Word
  cents : Word
  beatsel : BitVec 4
  interval : Word
  cursor : Nat
  outcnt : Nat
  beatCnt : Nat
  toffCnt : Nat
  subbeat : Nat
  mem : Memory
  /-- The model's own (log entry 3): the parameters of 00_scope.md R8, never changed by a step. -/
  cfg : Config
  /-- The model's own (log entry 4): the number of Reset events so far. -/
  resets : Nat
  /-- The model's own (log entry 1): the events still to come, the next one first. -/
  events : List Event
  /-- The model's own (log entry 2): the values HostRead has returned, the latest first. -/
  reads : List Word
deriving DecidableEq, Repr

/-- Why a step of the model stops without a next state. The FXU's own fatal fault is no such stop: it is a next
state with FATAL = 1 (60_exceptions.md R226). Each of these is raised only in a state that no run reaches, one
that breaks an invariant of 42_smoother.md R162 or 44_beat_scheduler.md R206 (log entry 7); all are safe. -/
inductive Fault where
  /-- Raised by the smoother when CURSOR or OUTCNT is past the end of HIST or SIDE (20_memory.md R63 says every
  index is in range). Safe: the model stops. -/
  | noSuchWord (space : RamSpace)
  /-- Raised by a firing of the beat clock when PATTERN has no entry for BEATSEL and SUBBEAT (10_state.md R47: the
  row of NONE is never consulted). Safe: the model stops. -/
  | noPatternEntry
  /-- Raised by Tick when an armed timer's counter is already 0 (10_state.md R52, R53: at least 1 while armed).
  Safe: the model stops. -/
  | timerUnderflow
deriving DecidableEq, Repr

/-- Why the model gives an instruction no meaning. -/
inductive Refusal where
  /-- Raised by `exec` for a command that has no meaning yet, by its mnemonic; no command is left so. Safe. -/
  | notModelled (mnemonic : String)
deriving DecidableEq, Repr

/-- Memory with nothing listed: FR, FI, HIST, SIDE and LUT read 0 everywhere (70_reset_and_hazards.md R240), and no
word of the two banks has been written (10_state.md R39). -/
def Memory.empty : Memory where
  bank0 := []
  bank1 := []
  fr := []
  fi := []
  hist := []
  side := []
  lut := []

/-- The machine right after reset (70_reset_and_hazards.md R240, 10_state.md R57), in the configuration REFCFG
(00_scope.md R10), with no event waiting. -/
def State.reset : State where
  opa := 0
  opb := 0
  resl := 0
  resh := 0
  ready := false
  back := true
  fatal := false
  fcode := 0
  samperr := false
  maprange := false
  rkind := 0
  toneOn := false
  toneHigh := false
  beatArmed := false
  toffArmed := false
  errcnt := 0
  dcmag := 0
  peakbin := 0
  peakmag := 0
  est := 0
  ravg := 0
  rdev := 0
  note := 0
  cents := 0
  beatsel := 0
  interval := 0
  cursor := 0
  outcnt := 0
  beatCnt := 0
  toffCnt := 0
  subbeat := 0
  mem := Memory.empty
  cfg := refConfig
  resets := 0
  events := []
  reads := []

end Sys2Proof.Machine
end

