-- ==== Sys2Proof/Machine/Flags.lean ====
section
/-!
DEFINITION. The flags: the STATUS register built from its fields (10_state.md R30), the codes of RKIND (R26) and
FCODE (60_exceptions.md R216), and the level outputs (60_exceptions.md R235). The kernel commands have no
arithmetic flags (10_state.md R25).
-/
namespace Sys2Proof.Machine

/-- `RKIND` after a pass that found no buffer (R26). -/
def rkindNoData : BitVec 2 := 0

/-- `RKIND` after a low-signal pass (R26). -/
def rkindLowSig : BitVec 2 := 1

/-- `RKIND` after a pass that gave a frequency (R26). -/
def rkindFreq : BitVec 2 := 2

/-- The code FCODE records for each cause (60_exceptions.md R216). -/
def causeCode : FatalCause → BitVec 4
  | .divz => 1
  | .badSubdiv => 2
  | .illCmd => 3

/-- STATUS, bits 31:16 first (R30). -/
def statusWord (s : State) : Word :=
  0#16 ++ BitVec.ofBool s.toffArmed ++ BitVec.ofBool s.beatArmed ++ BitVec.ofBool s.toneHigh ++
  BitVec.ofBool s.toneOn ++ s.rkind ++ BitVec.ofBool s.maprange ++ BitVec.ofBool s.samperr ++ s.fcode ++
  0#1 ++ BitVec.ofBool s.fatal ++ BitVec.ofBool s.back ++ BitVec.ofBool s.ready

/-- BEATSEL as the register port shows it, bits 31:4 zero (R34). -/
def beatselWord (s : State) : Word := s.beatsel.zeroExtend 32

/-- The output `tone_on` (R235). -/
def toneOnOut (s : State) : Bool := s.toneOn

/-- The output `tone_high` (R235), meaningful while `tone_on` is 1. -/
def toneHighOut (s : State) : Bool := s.toneHigh

/-- The output `fault`, the signal of "halt-and-signal" (R235). -/
def faultOut (s : State) : Bool := s.fatal

/-- The output `ready` (R235). -/
def readyOut (s : State) : Bool := s.ready

end Sys2Proof.Machine
end

