-- ==== Sys2Proof/Machine/Operands.lean ====
section
/-!
DEFINITION. How a command reads its operand registers (30_encoding.md R84, R85): the only operand forms there are.
-/
namespace Sys2Proof.Machine

/-- OPA read as a Fix: FXMUL, FXDIV, FX2F and MAPFREQ. -/
def opaFix (s : State) : Word := s.opa

/-- OPB read as a Fix: FXMUL and FXDIV. -/
def opbFix (s : State) : Word := s.opb

/-- OPA read as a signed 32-bit integer: I2FX and SETBEAT's tempo. -/
def opaInt (s : State) : Int := sext s.opa

/-- OPA read as an unsigned 32-bit integer: SETREF's reference pitch. -/
def opaNat (s : State) : Nat := zext s.opa

/-- OPB read as an unsigned 32-bit integer: SETBEAT's selector. -/
def opbNat (s : State) : Nat := zext s.opb

end Sys2Proof.Machine
end

