-- ==== Sys2Proof/Machine/Ops.lean ====
section
/-!
DEFINITION. The named operations over memory, fault entry and its only way out, Reset (60_exceptions.md R226, R228,
70_reset_and_hazards.md R240).
-/
namespace Sys2Proof.Machine

/-! ## Words of one memory -/

/-- The listed word at index `i`, if there is one. -/
def memFind {w : Nat} : Mem w → Nat → Option (BitVec w)
  | [], _ => none
  | (j, v) :: rest, i => if i = j then some v else memFind rest i

/-- List the word `v` at index `i`, in place of what was listed there. -/
def memInsert {w : Nat} : Mem w → Nat → BitVec w → Mem w
  | [], i, v => [(i, v)]
  | (j, u) :: rest, i, v =>
    if i < j then (i, v) :: (j, u) :: rest
    else if i = j then (i, v) :: rest
    else (j, u) :: memInsert rest i v

/-- List nothing at index `i`. -/
def memErase {w : Nat} (m : Mem w) (i : Nat) : Mem w := m.filter (fun cell => cell.1 ≠ i)

/-- What an unlisted word of FR, FI, HIST, SIDE or LUT reads as: its reset contents, 0 (10_state.md R38). -/
def ramUnlisted : Word := 0

/-- The word at index `i` of a RAM space. -/
def ramRead (m : Mem 32) (i : Nat) : Word := (memFind m i).getD ramUnlisted

/-- Write one word of a RAM space. -/
def ramWrite (m : Mem 32) (i : Nat) (v : Word) : Mem 32 :=
  if v = ramUnlisted then memErase m i else memInsert m i v

/-- The RAM whose words from index `i` on are those of a list, all others being 0. -/
def ramOfWords (i : Nat) : List Word → Mem 32
  | [] => []
  | v :: rest => if v = ramUnlisted then ramOfWords (i + 1) rest else (i, v) :: ramOfWords (i + 1) rest

/-! ## The spaces of the FXU -/

/-- One RAM space. -/
def Memory.space (m : Memory) : RamSpace → Mem 32
  | .fr => m.fr
  | .fi => m.fi
  | .hist => m.hist
  | .side => m.side
  | .lut => m.lut

/-- Replace one RAM space. -/
def Memory.setSpace (m : Memory) (sp : RamSpace) (x : Mem 32) : Memory :=
  match sp with
  | .fr => { m with fr := x }
  | .fi => { m with fi := x }
  | .hist => { m with hist := x }
  | .side => { m with side := x }
  | .lut => { m with lut := x }

/-- How many words a RAM space has (10_state.md R38). -/
def spaceLen (c : Config) : RamSpace → Nat
  | .fr => bufLen c
  | .fi => bufLen c
  | .hist => c.rollingItems
  | .side => c.outlierThresh
  | .lut => lutLen c

/-- `MemRead(SPACE, i)` (00_scope.md R15). -/
def Memory.word (m : Memory) (sp : RamSpace) (i : Nat) : Word := ramRead (m.space sp) i

/-- The first `n` words of a space, index 0 first. -/
def Memory.words (m : Memory) (sp : RamSpace) (n : Nat) : List Word := (List.range n).map (m.word sp)

/-- Replace all words of a space by those of a list, index 0 first. -/
def Memory.fill (m : Memory) (sp : RamSpace) (ws : List Word) : Memory := m.setSpace sp (ramOfWords 0 ws)

/-- `MemWrite(SPACE, i, v)` (00_scope.md R15). A word past the end of the space does not exist (10_state.md R38). -/
def Memory.store (c : Config) (m : Memory) (sp : RamSpace) (i : Nat) (v : Word) : Except Fault Memory :=
  if i < spaceLen c sp then .ok (m.setSpace sp (ramWrite (m.space sp) i v)) else .error (.noSuchWord sp)

/-- One sample bank, `true` naming BANK1. -/
def Memory.bank (m : Memory) : Bool → Mem 16
  | false => m.bank0
  | true => m.bank1

/-- Replace one sample bank. -/
def Memory.setBank (m : Memory) (b : Bool) (x : Mem 16) : Memory :=
  match b with
  | false => { m with bank0 := x }
  | true => { m with bank1 := x }

/-- The sample word at index `k` of bank `b`: what was last written there, or, when nothing has been since the
latest Reset, any value (10_state.md R39, log entry 4). DEDUCED (log entry 14): a word not written in the current
cycle holds its older sample, as 70_reset_and_hazards.md R250 says, where P5 says any value. -/
def bankWord (s : State) (b : Bool) (k : Nat) : Sample :=
  (memFind (s.mem.bank b) k).getD (Config.unwrittenSample s.resets b k)

/-- A memory's entries stand in strictly rising order of index, all of them below `len`. -/
abbrev memOrdered {w : Nat} (len : Nat) (m : Mem w) : Prop :=
  m.Pairwise (fun x y => x.1 < y.1) ∧ ∀ cell ∈ m, cell.1 < len

/-- A RAM space is in its one canonical form: ordered, and no entry equal to what an unlisted word reads as. -/
abbrev ramCanonical (len : Nat) (m : Mem 32) : Prop :=
  memOrdered len m ∧ ∀ cell ∈ m, cell.2 ≠ ramUnlisted

/-- Every space is in its one canonical form. An unlisted word of a bank is one nothing has written, so a bank lists
every word that has been written, whatever its value. -/
abbrev Memory.wf (c : Config) (m : Memory) : Prop :=
  memOrdered (bufLen c) m.bank0 ∧ memOrdered (bufLen c) m.bank1 ∧
  ramCanonical (spaceLen c .fr) m.fr ∧ ramCanonical (spaceLen c .fi) m.fi ∧
  ramCanonical (spaceLen c .hist) m.hist ∧ ramCanonical (spaceLen c .side) m.side ∧
  ramCanonical (spaceLen c .lut) m.lut

/-! ## Fault entry and Reset -/

/-- `raise Fault(code)`, fault entry (60_exceptions.md R226): the one exception of the machine. Nothing is saved and
control goes nowhere; every item not named keeps its value. -/
def raise (cause : FatalCause) (s : State) : State :=
  { s with
    fcode := causeCode cause
    fatal := true
    beatArmed := false
    toffArmed := false
    toneOn := false }

/-- The Reset event (70_reset_and_hazards.md R240), the only exit from the halted state (60_exceptions.md R228): every
item of the record takes its reset value, the banks become unspecified, the parameters stay. -/
def resetEvent (s : State) : State :=
  { State.reset with
    cfg := s.cfg
    resets := s.resets + 1
    events := s.events
    reads := s.reads }

end Sys2Proof.Machine
end

