-- ==== Sys2Proof/Machine/Beat.lean ====
section
/-!
DEFINITION. The metronome beat scheduler (44_beat_scheduler.md): the command SETBEAT and the Tick event.
-/
namespace Sys2Proof.Machine

/-- `DIVISOR(sel)` of a selector 1..15 (R190). -/
def beatDivisor (sel : Nat) : Nat :=
  if sel = 11 then 2
  else if sel = 12 ∨ sel = 13 then 3
  else if sel = 14 ∨ sel = 15 then 4
  else 1

/-- The tempo clamped to 20..300 (R193). -/
def clampBpm (bpm : Int) : Nat := if bpm < 20 then 20 else if 300 < bpm then 300 else bpm.toNat

/-- The period of the beat clock in milliseconds (R194, R195). -/
def beatInterval (bpm : Int) (sel : Nat) : Nat := udiv (udiv 60000 (clampBpm bpm)) (beatDivisor sel)

/-- `SETBEAT` (R194, R203). The tone and its timer are left alone, so a tone sounding now can last TONE_MS ticks more;
DEDUCED (log entry 13): the remark of R201 says at most TONE_MS − 1. -/
def execSetbeat (s : State) : Host.Outcome State Fault Refusal :=
  if 15 < opbNat s then .next (raise .badSubdiv s)
  else if opbNat s = 0 then
    .next { s with beatArmed := false, beatsel := 0, subbeat := 0, interval := 0, beatCnt := 0 }
  else
    .next { s with
      beatArmed := true
      beatsel := BitVec.ofNat 4 (opbNat s)
      subbeat := 0
      interval := BitVec.ofNat 32 (beatInterval (opaInt s) (opbNat s))
      beatCnt := beatInterval (opaInt s) (opbNat s) }

/-- Start a tone and (re)arm the one-shot (R198, R199). -/
def soundTone (isHigh : Bool) (s : State) : State :=
  { s with toneOn := true, toneHigh := isHigh, toffCnt := s.cfg.toneMs, toffArmed := true }

/-- `BEAT_FIRE()`, one firing of the beat clock (R198). -/
def beatFire (s : State) : Except Fault State :=
  match (patternRow s.cfg s.beatsel.toNat)[s.subbeat]? with
  | none => .error .noPatternEntry
  | some kind =>
    let t := { s with
      beatCnt := zext s.interval
      subbeat := (s.subbeat + 1) % patternLen s.cfg s.beatsel.toNat }
    match kind with
    | .high => .ok (soundTone true t)
    | .low => .ok (soundTone false t)
    | .silent => .ok t

/-- Part (a) of a Tick, the tone-off one-shot (R197). -/
def tickToneOff (s : State) : Except Fault State :=
  if s.toffArmed = false then .ok s
  else
    match s.toffCnt with
    | 0 => .error .timerUnderflow
    | 1 => .ok { s with toffCnt := 0, toneOn := false, toffArmed := false }
    | n + 2 => .ok { s with toffCnt := n + 1 }

/-- Part (b) of a Tick, the beat clock (R197). -/
def tickBeat (s : State) : Except Fault State :=
  if s.beatArmed = false then .ok s
  else
    match s.beatCnt with
    | 0 => .error .timerUnderflow
    | 1 => beatFire { s with beatCnt := 0 }
    | n + 2 => .ok { s with beatCnt := n + 1 }

/-- The `Tick` event (R197, R207). -/
def tickEvent (s : State) : Host.Outcome State Fault Refusal :=
  if s.fatal = true then .next s
  else
    match tickToneOff s with
    | .error e => .fault e
    | .ok t =>
      match tickBeat t with
      | .error e => .fault e
      | .ok u => .next u

end Sys2Proof.Machine
end

