-- ==== Sys2Proof/Machine/Kernel.lean ====
section
/-!
DEFINITION. The fixed-point arithmetic kernel: the four functions every numeric block calls (40_fixed_point.md R101,
R104, R107, R109, R111) and the four commands over them.
-/
namespace Sys2Proof.Machine

/-- `fxmul(a, b)`: the exact signed product shifted right arithmetically by 15, low 32 bits (R101). -/
def fxmul (a b : Word) : Word := wrap32 (asr (sext a * sext b) 15)

/-- `fxdiv(a, b)`: the dividend promoted, shifted left by 15 and divided toward zero, low 32 bits (R104). No value
for a zero divisor (R105). -/
def fxdiv (a b : Word) : Option Word :=
  if sext b = 0 then none else some (wrap32 (tdiv (shl (sext a) 15) (sext b)))

/-- `i2fx(n)` of an integer (R107). -/
def i2fx (n : Int) : Word := wrap32 (shl n 15)

/-- `fx2f(a)`: the binary64 pattern of the Fix `a` (R109). -/
def fx2f (a : Word) : Pattern64 :=
  if sext a = 0 then 0
  else
    let m := (sext a).natAbs
    let e := msb m
    BitVec.ofBool (decide (sext a < 0)) ++ BitVec.ofNat 11 (e + 1023 - 15) ++
      BitVec.ofNat 52 ((m - 2 ^ e) * 2 ^ (52 - e))

/-- `FXMUL` (R100). -/
def execFxmul (s : State) : Host.Outcome State Fault Refusal :=
  .next { s with resl := fxmul (opaFix s) (opbFix s) }

/-- `FXDIV` (R103): DIVZ before any write when OPB is 0. -/
def execFxdiv (s : State) : Host.Outcome State Fault Refusal :=
  match fxdiv (opaFix s) (opbFix s) with
  | none => .next (raise .divz s)
  | some q => .next { s with resl := q }

/-- `I2FX` (R106). -/
def execI2fx (s : State) : Host.Outcome State Fault Refusal :=
  .next { s with resl := i2fx (opaInt s) }

/-- `FX2F` (R108): high word to RESH, low word to RESL. -/
def execFx2f (s : State) : Host.Outcome State Fault Refusal :=
  .next { s with
    resh := (fx2f (opaFix s)).extractLsb' 32 32
    resl := (fx2f (opaFix s)).extractLsb' 0 32 }

end Sys2Proof.Machine
end

