-- ==== Sys2Proof/Machine/Smoother.lean ====
section
/-!
DEFINITION. Stage S8 of ESTIMATE, the rolling-average smoother with outlier rejection (42_smoother.md R150 to R164).
-/
namespace Sys2Proof.Machine

/-- The lower end of the acceptance band (R151). -/
def bandLo (s : State) : Int := sext (wrap32 (sext s.ravg - sext s.rdev))

/-- The upper end of the acceptance band (R151). -/
def bandHi (s : State) : Int := sext (wrap32 (sext s.ravg + sext s.rdev))

/-- An estimate outside the closed band is an outlier (R151). -/
abbrev isOutlier (f : Word) (s : State) : Prop := sext f < bandLo s ∨ bandHi s < sext f

/-- The mean of the non-zero words of a history, rounded toward zero; 0 when every slot is empty (R158). -/
def meanOfFilled (ws : List Word) : Word :=
  let filled := ws.filter (· ≠ 0)
  if filled.length = 0 then 0 else wrap32 (tdiv (filled.map sext).sum filled.length)

/-- `RECOMPUTE()` (R158). -/
def recompute (s : State) : State :=
  let avg := meanOfFilled (s.mem.words .hist s.cfg.rollingItems)
  { s with ravg := avg, rdev := fxmul avg kDev }

/-- The regime change (R154): the side buffer becomes the history, every other slot empty, and the average is
recomputed. SIDE itself is not cleared. -/
def regimeChange (s : State) : State :=
  recompute { s with
    mem := s.mem.fill .hist ((List.range s.cfg.rollingItems).map fun i =>
      if i < s.cfg.outlierThresh then s.mem.word .side i else 0)
    cursor := s.cfg.outlierThresh % s.cfg.rollingItems
    outcnt := 0 }

/-- `S8_SMOOTH(f)` (R152). The value it returns is RAVG of the state it leaves, on every path. -/
def smooth (f : Word) (s : State) : Except Fault State :=
  if isOutlier f s then
    match Memory.store s.cfg s.mem .side s.outcnt f with
    | .error e => .error e
    | .ok m =>
      if s.cfg.outlierThresh ≤ s.outcnt + 1 then
        .ok (regimeChange { s with mem := m, outcnt := s.outcnt + 1 })
      else .ok { s with mem := m, outcnt := s.outcnt + 1 }
  else
    match Memory.store s.cfg s.mem .hist s.cursor f with
    | .error e => .error e
    | .ok m =>
      .ok (recompute { s with mem := m, outcnt := 0, cursor := (s.cursor + 1) % s.cfg.rollingItems })

end Sys2Proof.Machine
end

