-- ==== Sys2Proof/Machine/Estimator.lean ====
section
/-!
DEFINITION. The spectral estimator (41_estimate.md): the stages S1 to S7 as procedures on the state, and the command
ESTIMATE, which runs them and then stage S8 (R120).
-/
namespace Sys2Proof.Machine

/-! ## S1: ingest and error scrub (R123, R124) -/

/-- The error flag of a sample word, bit 15. -/
def sampleFlag (w : Sample) : Bool := w.getLsbD 15

/-- The sample word with its flag cleared. -/
def sampleScrub (w : Sample) : Sample := w &&& 0x7FFF

/-- The unsigned reading, bits 14:0. -/
def sampleReading (w : Sample) : Nat := (w.extractLsb' 0 15).toNat

/-- The sample words of a bank, index 0 first. -/
def bankWords (s : State) (b : Bool) : List Sample := (List.range (bufLen s.cfg)).map (bankWord s b)

/-- Write back, cleared, each flagged word of a list that stands in a bank from index `k` on. -/
def scrubBank (k : Nat) (ws : List Sample) (m : Mem 16) : Mem 16 :=
  match ws with
  | [] => m
  | w :: rest => scrubBank (k + 1) rest (if sampleFlag w then memInsert m k (sampleScrub w) else m)

/-- `S1_INGEST()` (R123). -/
def s1Ingest (s : State) : State :=
  let ws := bankWords s s.back
  let cnt := ws.countP sampleFlag
  { s with
    mem := ((s.mem.setBank s.back (scrubBank 0 ws (s.mem.bank s.back))).fill .fr
      (ws.map fun w => i2fx (sampleReading w))).fill .fi (ws.map fun _ => 0)
    errcnt := BitVec.ofNat 32 cnt
    samperr := decide (0 < cnt)
    ready := false }

/-! ## S2: window (R125) -/

/-- The Hann coefficient of index `k`, the cosine read from SINE a quarter period ahead (R125). -/
def windowCoeff (c : Config) (k : Nat) : Word :=
  wrap32 (asr (32768 - sineAt c ((k + bufLen c / 4) % bufLen c)) 1)

/-- `S2_WINDOW()` (R125). -/
def s2Window (s : State) : State :=
  { s with
    mem := s.mem.fill .fr ((List.range (bufLen s.cfg)).map fun k =>
      fxmul (s.mem.word .fr k) (windowCoeff s.cfg k)) }

/-! ## S3: bit-reversal permutation (R127) -/

/-- A space in bit-reversed order. -/
def permuted (c : Config) (m : Memory) (sp : RamSpace) : List Word :=
  (List.range (bufLen c)).map fun i => m.word sp (revBits c.log2n i)

/-- `S3_PERMUTE()` (R127): all words at once. -/
def s3Permute (s : State) : State :=
  { s with mem := (s.mem.fill .fr (permuted s.cfg s.mem .fr)).fill .fi (permuted s.cfg s.mem .fi) }

/-! ## S4: FFT and magnitude (R128, R131) -/

/-- The real and the imaginary working array while the FFT runs. -/
abbrev ReIm := List Word × List Word

/-- One butterfly on the words `a` and `b`, with the halved twiddle `wr`, `wi` (R128). -/
def butterfly (wr wi : Word) (a b : Nat) (x : ReIm) : ReIm :=
  let tr := wrap32 (sext (fxmul wr (x.1.getD b 0)) - sext (fxmul wi (x.2.getD b 0)))
  let ti := wrap32 (sext (fxmul wr (x.2.getD b 0)) + sext (fxmul wi (x.1.getD b 0)))
  let qr := asr (sext (x.1.getD a 0)) 1
  let qi := asr (sext (x.2.getD a 0)) 1
  ((x.1.set b (wrap32 (qr - sext tr))).set a (wrap32 (qr + sext tr)),
   (x.2.set b (wrap32 (qi - sext ti))).set a (wrap32 (qi + sext ti)))

/-- Half the cosine of the twiddle angle `2πj/N` (R128). -/
def twiddleRe (c : Config) (j : Nat) : Word := wrap32 (asr (sineAt c (j + bufLen c / 4)) 1)

/-- Half the negated sine of the twiddle angle `2πj/N` (R128). -/
def twiddleIm (c : Config) (j : Nat) : Word := wrap32 (asr (-sineAt c j) 1)

/-- The butterflies of one value of `m` in the stage of half-length `len`: `i = m, m + 2L, m + 4L, ..` below N. -/
def fftGroup (c : Config) (len j m : Nat) (x : ReIm) : ReIm :=
  (List.range (bufLen c / (2 * len))).foldl
    (fun y t => butterfly (twiddleRe c j) (twiddleIm c j) (m + t * (2 * len)) (m + t * (2 * len) + len) y) x

/-- Stage number `st` of the FFT: half-length `L = 2^st`, twiddle index shift `LOG2N − 1 − st`. -/
def fftStage (c : Config) (x : ReIm) (st : Nat) : ReIm :=
  (List.range (2 ^ st)).foldl (fun y m => fftGroup c (2 ^ st) (m * 2 ^ (c.log2n - 1 - st)) m y) x

/-- All LOG2N stages in order. -/
def fftRun (c : Config) (x : ReIm) : ReIm := (List.range c.log2n).foldl (fftStage c) x

/-- The value of a magnitude expression at the absolute values `x` and `y` of `re` and `im`. -/
def magValue (x y : Nat) : MagExpr → Nat
  | .reAbs => x
  | .imAbs => y
  | .lit n => n
  | .add a b => magValue x y a + magValue x y b
  | .sub a b => magValue x y a - magValue x y b
  | .mul a b => magValue x y a * magValue x y b
  | .div a b => magValue x y a / magValue x y b
  | .sqrt a => isqrt (magValue x y a)
  | .ifLe a b yes no => if magValue x y a ≤ magValue x y b then magValue x y yes else magValue x y no

/-- `MAG(re, im)` (R131): the exact integer square root, or the configured replacement. A replacement sees the absolute
values alone and its value is kept below 2^31, so it meets the rule's three constraints whatever the expression. -/
def magnitude (c : Config) (re im : Word) : Word :=
  match c.mag with
  | .exactRoot => wrap32 (isqrt ((sext re).natAbs ^ 2 + (sext im).natAbs ^ 2))
  | .replacement body => wrap32 (magValue (sext re).natAbs (sext im).natAbs body % 2 ^ 31 : Nat)

/-- The butterfly part of `S4_FFT()` (R128). -/
def s4Butterflies (s : State) : State :=
  let x := fftRun s.cfg (s.mem.words .fr (bufLen s.cfg), s.mem.words .fi (bufLen s.cfg))
  { s with mem := (s.mem.fill .fr x.1).fill .fi x.2 }

/-- The magnitude part of `S4_FFT()` (R131): FI stays as the butterflies left it. -/
def s4Magnitude (s : State) : State :=
  { s with
    mem := s.mem.fill .fr ((List.range (bufLen s.cfg)).map fun k =>
      magnitude s.cfg (s.mem.word .fr k) (s.mem.word .fi k)) }

/-- `S4_FFT()`. -/
def s4Fft (s : State) : State := s4Magnitude (s4Butterflies s)

/-! ## S5: peak detection (R132) -/

/-- One candidate bin of the scan; `acc` is the best value so far and its bin. -/
def peakStep (spectrum : Nat → Int) (acc : Int × Nat) (k : Nat) : Int × Nat :=
  if spectrum (k - 1) < spectrum k ∧ spectrum (k + 1) < spectrum k ∧ acc.1 < spectrum k then (spectrum k, k) else acc

/-- The scan over bins `1 .. N/2 − 1`, ascending (R132). -/
def findPeak (c : Config) (spectrum : Nat → Int) : Int × Nat :=
  (List.range' 1 (bufLen c / 2 - 1)).foldl (peakStep spectrum) (0, 0)

/-- `S5_PEAK()` (R132). -/
def s5Peak (s : State) : State :=
  let p := findPeak s.cfg (fun k => sext (s.mem.word .fr k))
  { s with
    peakbin := BitVec.ofNat 32 p.2
    peakmag := wrap32 p.1
    dcmag := s.mem.word .fr 0 }

/-! ## S7: parabolic interpolation (R136) -/

/-- The estimate in hertz from a bin and the three magnitudes around it (R136); none when the denominator is 0. -/
def interpolate (c : Config) (bin : Nat) (left peak right : Int) : Option Word :=
  match fxdiv (wrap32 (left - right)) (wrap32 (2 * (left + right - 2 * peak))) with
  | none => none
  | some delta => some (fxmul (wrap32 (sext (i2fx bin) + sext delta)) (wrap32 (binHz c)))

/-- `S7_INTERP()`'s estimate (R136). -/
def s7Interp (s : State) : Option Word :=
  let b := zext s.peakbin
  interpolate s.cfg b (sext (s.mem.word .fr (b - 1))) (sext (s.mem.word .fr b)) (sext (s.mem.word .fr (b + 1)))

/-! ## The command -/

/-- Stages S1 to S5 of a pass. -/
def passToPeak (s : State) : State := s5Peak (s4Fft (s3Permute (s2Window (s1Ingest s))))

/-- `ESTIMATE` (R120). -/
def execEstimate (s : State) : Host.Outcome State Fault Refusal :=
  if s.ready = false then .next { s with resl := noData, rkind := rkindNoData }
  else
    let p := passToPeak s
    if sext p.peakmag < p.cfg.noiseFloor then
      .next { p with est := lowSig, resl := lowSig, rkind := rkindLowSig }
    else
      match s7Interp p with
      | none => .next (raise .divz p)
      | some f =>
        match smooth f { p with est := f } with
        | .error e => .fault e
        | .ok t => .next { t with resl := t.ravg, rkind := rkindFreq }

end Sys2Proof.Machine
end

