-- ==== Sys2Proof/Machine/NoteMapper.lean ====
section
/-!
DEFINITION. The reference-pitch table builder SETREF and the note mapper MAPFREQ (43_note_mapper.md).
-/
namespace Sys2Proof.Machine

/-- `LUTENTRY(ref, i)`, the Q16.15 value of `ref × 2^((i − 57)/12)` rounded to nearest (R176). -/
def lutEntry (ref i : Nat) : Word :=
  let d : Int := (i : Int) - 57
  let o := floordiv d 12
  let sh := (15 - o).toNat
  wrap32 (udiv (ref * semiAt (floormod d 12).toNat + 2 ^ (sh - 1)) (2 ^ sh) : Nat)

/-- `SETREF` (R175): every word of LUT, nothing else. -/
def execSetref (s : State) : Host.Outcome State Fault Refusal :=
  .next { s with mem := s.mem.fill .lut ((List.range (lutLen s.cfg)).map (lutEntry (opaNat s))) }

/-- The fraction bits of a base-2 logarithm below place `b`, one squaring of the 2.30 mantissa `m` each (R182). -/
def logBits : Nat → Nat → Nat → Nat
  | 0, _, frac => frac
  | b + 1, m, frac =>
    let sq := udiv (m * m) (2 ^ 30)
    if 2 ^ 31 ≤ sq then logBits b (udiv sq 2) (frac + 2 ^ b) else logBits b sq frac

/-- `LOG2(x)` for `sext(x) ≥ 1`, the only arguments MAPFREQ gives it (R181, R182). DEDUCED (log entry 15): the value is
that of the squarings, which for a few arguments is one unit under the Fix nearest below the logarithm. -/
def log2Fix (x : Word) : Word :=
  let v := (sext x).toNat
  let p := msb v
  wrap32 (shl ((p : Int) - 15) 15 + (logBits 15 (v * 2 ^ (30 - p)) 0 : Nat))

/-- A distance in semitones, a Fix, as cents rounded to nearest (R178). -/
def centsOf (d : Word) : Int := asr (sext d * 100 + 16384) 15

/-- The nearer note of the bracket whose lower entry has index `j`, and the cents deviation (R178); none when the
log-width of the bracket is 0 (R180). DEDUCED (log entry 15): the log-width is what R176 and R182 compute, which for
references up to 54 can be other than the 2730 or 2731 of R180's remark. -/
def mapInBracket (f lower upper : Word) (j : Nat) : Option (Nat × Word) :=
  let ll := log2Fix lower
  let lu := log2Fix upper
  let lf := log2Fix f
  let span := wrap32 (sext lu - sext ll)
  match fxdiv (wrap32 (sext lf - sext ll)) span with
  | none => none
  | some fl =>
    match fxdiv (wrap32 (sext lu - sext lf)) span with
    | none => none
    | some fu =>
      if sext fl ≤ sext fu then some (j, wrap32 (centsOf fl)) else some (j + 1, wrap32 (-centsOf fu))

/-- The least index whose table entry exceeds `f` (R178). -/
def firstAbove (s : State) (f : Word) : Option Nat :=
  (s.mem.words .lut (lutLen s.cfg)).findIdx? (fun e => decide (sext f < sext e))

/-- `MAPFREQ` (R178, R181). -/
def execMapfreq (s : State) : Host.Outcome State Fault Refusal :=
  match firstAbove s (opaFix s) with
  | none => .next { s with maprange := true }
  | some 0 => .next { s with maprange := true }
  | some (j + 1) =>
    if sext (s.mem.word .lut j) ≤ 0 then .next { s with maprange := true }
    else
      match mapInBracket (opaFix s) (s.mem.word .lut j) (s.mem.word .lut (j + 1)) j with
      | none => .next (raise .divz s)
      | some (n, c) => .next { s with note := BitVec.ofNat 32 n, cents := c, maprange := false }

end Sys2Proof.Machine
end

