-- ==== Sys2Proof/Machine/Dispatch.lean ====
section
/-! DEFINITION. The dispatch of a decoded command to its meaning (30_encoding.md R94). -/
namespace Sys2Proof.Machine

def exec (i : Instr) (s : State) : Host.Outcome State Fault Refusal :=
  match i with
  | .fxmul => Sys2Proof.Machine.execFxmul s
  | .fxdiv => Sys2Proof.Machine.execFxdiv s
  | .i2fx => Sys2Proof.Machine.execI2fx s
  | .fx2f => Sys2Proof.Machine.execFx2f s
  | .estimate => Sys2Proof.Machine.execEstimate s
  | .mapfreq => Sys2Proof.Machine.execMapfreq s
  | .setref => Sys2Proof.Machine.execSetref s
  | .setbeat => Sys2Proof.Machine.execSetbeat s

end Sys2Proof.Machine
end

