-- ==== Sys2Proof/Machine/Port.lean ====
section
/-!
DEFINITION. The outside of the FXU: the register port (10_state.md R28, R35), the acquisition interface
(20_memory.md R68, R70) and the run of one event (00_scope.md R17).
-/
namespace Sys2Proof.Machine

/-- The names of the register port (10_state.md R28). -/
inductive RegName where
  | cmd | status | opa | opb | resl | resh | errcnt | dcmag | peakbin | peakmag | est | ravg | rdev
  | note | cents | beatsel | interval
deriving DecidableEq, Repr

/-- The register of a number, none above 16 (R28). -/
def regOfNumber : Nat → Option RegName
  | 0 => some .cmd
  | 1 => some .status
  | 2 => some .opa
  | 3 => some .opb
  | 4 => some .resl
  | 5 => some .resh
  | 6 => some .errcnt
  | 7 => some .dcmag
  | 8 => some .peakbin
  | 9 => some .peakmag
  | 10 => some .est
  | 11 => some .ravg
  | 12 => some .rdev
  | 13 => some .note
  | 14 => some .cents
  | 15 => some .beatsel
  | 16 => some .interval
  | _ => none

/-- The number of a register (R28). -/
def regNumber : RegName → Nat
  | .cmd => 0
  | .status => 1
  | .opa => 2
  | .opb => 3
  | .resl => 4
  | .resh => 5
  | .errcnt => 6
  | .dcmag => 7
  | .peakbin => 8
  | .peakmag => 9
  | .est => 10
  | .ravg => 11
  | .rdev => 12
  | .note => 13
  | .cents => 14
  | .beatsel => 15
  | .interval => 16

/-- The 32 bits of a named register; CMD is not storage and reads 0 (R29). -/
def regValue (s : State) : RegName → Word
  | .cmd => 0
  | .status => statusWord s
  | .opa => s.opa
  | .opb => s.opb
  | .resl => s.resl
  | .resh => s.resh
  | .errcnt => s.errcnt
  | .dcmag => s.dcmag
  | .peakbin => s.peakbin
  | .peakmag => s.peakmag
  | .est => s.est
  | .ravg => s.ravg
  | .rdev => s.rdev
  | .note => s.note
  | .cents => s.cents
  | .beatsel => beatselWord s
  | .interval => s.interval

/-- The value `HostRead(r)` returns: 0 above 16 (R35). -/
def portRead (s : State) (r : Nat) : Word :=
  match regOfNumber r with
  | some reg => regValue s reg
  | none => 0

/-- The `HostRead` event (R35, R37): the value goes to the host, the FXU does not change. -/
def hostReadEvent (r : Nat) (s : State) : Host.Outcome State Fault Refusal :=
  .next { s with reads := portRead s r :: s.reads }

/-- `HostWrite(0, v)` while not halted (30_encoding.md R94): the command, or ILLCMD (R87). -/
def issueCommand (v : Word) (s : State) : Host.Outcome State Fault Refusal :=
  match decode v with
  | .error _ => .next (raise .illCmd s)
  | .ok i => exec i s

/-- The `HostWrite` event (R35): ignored while halted, else CMD, OPA or OPB, and any other register ignored. -/
def hostWriteEvent (r : Nat) (v : Word) (s : State) : Host.Outcome State Fault Refusal :=
  if s.fatal = true then .next s
  else
    match regOfNumber r with
    | some .cmd => issueCommand v s
    | some .opa => .next { s with opa := v }
    | some .opb => .next { s with opb := v }
    | _ => .next s

/-- The `AcqWrite` event (20_memory.md R68): the front bank, in any state; past the end it is ignored. -/
def acqWriteEvent (k : Nat) (w : Sample) (s : State) : Host.Outcome State Fault Refusal :=
  if k < bufLen s.cfg then
    .next { s with mem := s.mem.setBank (!s.back) (memInsert (s.mem.bank (!s.back)) k w) }
  else .next s

/-- The `AcqDone` event (20_memory.md R70, R71): the banks change places, in any state. -/
def acqDoneEvent (s : State) : Host.Outcome State Fault Refusal :=
  .next { s with back := !s.back, ready := true }

/-- One event as one atomic step (00_scope.md R17). -/
def runEvent (e : Event) (s : State) : Host.Outcome State Fault Refusal :=
  match e with
  | .reset => .next (resetEvent s)
  | .hostWrite r v => hostWriteEvent r v s
  | .hostRead r => hostReadEvent r s
  | .acqWrite k w => acqWriteEvent k w s
  | .acqDone => acqDoneEvent s
  | .tick => tickEvent s

/-- Take the next event from the list and run it; with none waiting the FXU is idle and holds its state
(60_exceptions.md R234). -/
def stepEvent (s : State) : Host.Outcome State Fault Refusal :=
  match s.events with
  | [] => .next s
  | e :: rest => runEvent e { s with events := rest }

/-- Put the events of a script in front of those waiting. -/
def withEvents (es : List Event) (s : State) : State := { s with events := es ++ s.events }

/-- The write of a command word to CMD as the very next event: what an instruction fetch is on this machine, a
command word being the data of the HostWrite that issues it (20_memory.md R75). -/
def withCommandNext (v : Word) (s : State) : State := withEvents [.hostWrite 0 v] s

end Sys2Proof.Machine
end

