-- ==== Sys2Proof/Machine/Step.lean ====
section
/-! DEFINITION. One step of the machine: one event (00_scope.md R17). -/
namespace Sys2Proof.Machine

/-- One step: the next event, run to completion. -/
def step (s : State) : Host.Outcome State Fault Refusal := stepEvent s

/-- `s` with the command word of `nbits` bits `w` written to CMD by the very next step. -/
def State.withFetchWord (s : State) (nbits w : Nat) : State := withCommandNext (BitVec.ofNat 32 (w % 2 ^ nbits)) s

end Sys2Proof.Machine
end

