-- ==== Sys2Proof/Laws/Memory.lean ====
section
/-!
SUPPORT. The memory operations: what a read gives after a write, and that every operation keeps the one canonical
form (log entry 6).
-/
namespace Sys2Proof.Machine

section Cells
variable {w : Nat}

@[simp] theorem memFind_nil (i : Nat) : memFind ([] : Mem w) i = none := rfl

theorem memFind_cons (j : Nat) (v : BitVec w) (rest : Mem w) (i : Nat) :
    memFind ((j, v) :: rest) i = if i = j then some v else memFind rest i := rfl

theorem memFind_insert (m : Mem w) (i k : Nat) (v : BitVec w) :
    memFind (memInsert m i v) k = if k = i then some v else memFind m k := by
  induction m with
  | nil => simp [memInsert, memFind]
  | cons cell rest ih =>
    obtain ⟨j, u⟩ := cell
    unfold memInsert
    by_cases h1 : i < j
    · rw [if_pos h1, memFind]
    · rw [if_neg h1]
      by_cases h2 : i = j
      · subst h2
        rw [if_pos rfl, memFind, memFind]
        split_ifs <;> rfl
      · rw [if_neg h2, memFind, ih, memFind]
        split_ifs <;> first | rfl | omega

@[simp] theorem memFind_insert_self (m : Mem w) (i : Nat) (v : BitVec w) : memFind (memInsert m i v) i = some v := by
  simp [memFind_insert]

theorem memFind_insert_ne (m : Mem w) {i k : Nat} (v : BitVec w) (h : k ≠ i) :
    memFind (memInsert m i v) k = memFind m k := by simp [memFind_insert, h]

theorem memFind_erase (m : Mem w) (i k : Nat) : memFind (memErase m i) k = if k = i then none else memFind m k := by
  induction m with
  | nil => simp [memErase]
  | cons cell rest ih =>
    obtain ⟨j, u⟩ := cell
    simp only [memErase] at ih ⊢
    by_cases h : j = i
    · subst h
      rw [List.filter_cons_of_neg (by simp), ih, memFind]
      split_ifs <;> rfl
    · rw [List.filter_cons_of_pos (by simpa using h), memFind, ih, memFind]
      split_ifs <;> first | rfl | omega

theorem memFind_eq_none_of_lt {m : Mem w} {i : Nat} (h : ∀ cell ∈ m, i < cell.1) : memFind m i = none := by
  induction m with
  | nil => rfl
  | cons cell rest ih =>
    obtain ⟨j, u⟩ := cell
    have hj := h (j, u) (by simp)
    simp only [memFind]
    rw [if_neg (by simp at hj; omega), ih fun c hc => h c (by simp [hc])]

theorem mem_of_memFind {m : Mem w} {i : Nat} {v : BitVec w} (h : memFind m i = some v) : (i, v) ∈ m := by
  induction m with
  | nil => simp at h
  | cons cell rest ih =>
    obtain ⟨j, u⟩ := cell
    simp only [memFind] at h
    split_ifs at h with hij
    · simp_all
    · exact List.mem_cons_of_mem _ (ih h)

theorem memInsert_mem {m : Mem w} {i : Nat} {v : BitVec w} {cell : Nat × BitVec w}
    (h : cell ∈ memInsert m i v) : cell = (i, v) ∨ cell ∈ m := by
  induction m with
  | nil => simpa [memInsert] using h
  | cons c rest ih =>
    obtain ⟨j, u⟩ := c
    unfold memInsert at h
    split_ifs at h with h1 h2
    · simpa using h
    · rcases List.mem_cons.1 h with h | h
      · exact .inl h
      · exact .inr (by simp [h])
    · rcases List.mem_cons.1 h with h | h
      · exact .inr (by simp [h])
      · rcases ih h with h | h
        · exact .inl h
        · exact .inr (by simp [h])

theorem memInsert_ordered {len : Nat} {m : Mem w} {i : Nat} (v : BitVec w) (hm : memOrdered len m) (hi : i < len) :
    memOrdered len (memInsert m i v) := by
  refine ⟨?_, fun cell hc => ?_⟩
  · have hp := hm.1
    clear hm
    induction m with
    | nil => simp [memInsert]
    | cons c rest ih =>
      obtain ⟨j, u⟩ := c
      have hrest := (List.pairwise_cons.1 hp).2
      have hall := (List.pairwise_cons.1 hp).1
      unfold memInsert
      split_ifs with h1 h2
      · refine List.pairwise_cons.2 ⟨fun c hc => ?_, hp⟩
        rcases List.mem_cons.1 hc with rfl | hc
        · exact h1
        · exact lt_trans h1 (hall c hc)
      · subst h2
        exact List.pairwise_cons.2 ⟨hall, hrest⟩
      · refine List.pairwise_cons.2 ⟨fun c hc => ?_, ih hrest⟩
        rcases memInsert_mem hc with rfl | hc
        · simp only; omega
        · exact hall c hc
  · rcases memInsert_mem hc with rfl | hc
    · exact hi
    · exact hm.2 cell hc

theorem memErase_ordered {len : Nat} {m : Mem w} (i : Nat) (hm : memOrdered len m) : memOrdered len (memErase m i) :=
  ⟨hm.1.filter _, fun cell hc => hm.2 cell (List.mem_filter.1 hc).1⟩

/-- Two ordered memories that find the same words are the same list. -/
theorem mem_ext {len : Nat} {m m' : Mem w} (hm : memOrdered len m) (hm' : memOrdered len m')
    (h : ∀ i, memFind m i = memFind m' i) : m = m' := by
  have hp := hm.1
  have hp' := hm'.1
  clear hm hm'
  induction m generalizing m' with
  | nil =>
    cases m' with
    | nil => rfl
    | cons c rest => obtain ⟨j, u⟩ := c; simpa [memFind] using h j
  | cons c rest ih =>
    obtain ⟨j, u⟩ := c
    cases m' with
    | nil => simpa [memFind] using (h j).symm
    | cons c' rest' =>
      obtain ⟨j', u'⟩ := c'
      obtain ⟨ha, hr⟩ := List.pairwise_cons.1 hp
      obtain ⟨ha', hr'⟩ := List.pairwise_cons.1 hp'
      have hjj : j = j' := by
        by_contra hne
        rcases lt_or_gt_of_ne hne with hlt | hgt
        · have := h j
          rw [memFind_eq_none_of_lt (m := (j', u') :: rest') fun c hc => by
            rcases List.mem_cons.1 hc with rfl | hc
            · exact hlt
            · exact lt_trans hlt (ha' c hc)] at this
          simp [memFind] at this
        · have := h j'
          rw [memFind_eq_none_of_lt (m := (j, u) :: rest) fun c hc => by
            rcases List.mem_cons.1 hc with rfl | hc
            · exact hgt
            · exact lt_trans hgt (ha c hc)] at this
          simp [memFind] at this
      subst hjj
      have huu : u = u' := by simpa [memFind] using h j
      subst huu
      congr 1
      refine ih (fun i => ?_) hr hr'
      by_cases hij : i = j
      · subst hij
        rw [memFind_eq_none_of_lt ha, memFind_eq_none_of_lt ha']
      · simpa [memFind, hij] using h i

end Cells

/-! ## One RAM space -/

@[simp] theorem ramRead_nil (i : Nat) : ramRead [] i = 0 := rfl

theorem ramRead_write (m : Mem 32) (i k : Nat) (v : Word) :
    ramRead (ramWrite m i v) k = if k = i then v else ramRead m k := by
  unfold ramRead ramWrite
  split_ifs with h1 h2 h2
  · simp [memFind_erase, h2, h1]
  · simp [memFind_erase, h2]
  · simp [h2]
  · simp [memFind_insert, h2]

@[simp] theorem ramRead_write_self (m : Mem 32) (i : Nat) (v : Word) : ramRead (ramWrite m i v) i = v := by
  simp [ramRead_write]

theorem ramRead_write_ne (m : Mem 32) {i k : Nat} (v : Word) (h : k ≠ i) :
    ramRead (ramWrite m i v) k = ramRead m k := by simp [ramRead_write, h]

theorem ramOfWords_ge (ws : List Word) (i : Nat) : ∀ cell ∈ ramOfWords i ws, i ≤ cell.1 := by
  induction ws generalizing i with
  | nil => simp [ramOfWords]
  | cons v rest ih =>
    intro cell hc
    unfold ramOfWords at hc
    split_ifs at hc with hv
    · exact Nat.le_of_succ_le (ih (i + 1) cell hc)
    · rcases List.mem_cons.1 hc with rfl | hc
      · exact le_rfl
      · exact Nat.le_of_succ_le (ih (i + 1) cell hc)

theorem ramRead_ofWords_from (ws : List Word) (i k : Nat) : ramRead (ramOfWords i ws) (i + k) = ws.getD k 0 := by
  induction ws generalizing i k with
  | nil => simp [ramOfWords]
  | cons v rest ih =>
    have hlow : memFind (ramOfWords (i + 1) rest) i = none :=
      memFind_eq_none_of_lt fun c hc => ramOfWords_ge rest (i + 1) c hc
    cases k with
    | zero =>
      unfold ramOfWords ramRead
      split_ifs with hv
      · simp [hlow, hv]
      · simp [memFind]
    | succ k =>
      have hk : i + (k + 1) = i + 1 + k := by omega
      have := ih (i + 1) k
      unfold ramRead at this ⊢
      unfold ramOfWords
      split_ifs with hv
      · rw [hk]; simpa using this
      · rw [memFind, if_neg (by omega), hk]; simpa using this

/-- A space filled from a list reads as the list, and 0 past its end. -/
theorem ramRead_ofWords (ws : List Word) (k : Nat) : ramRead (ramOfWords 0 ws) k = ws.getD k 0 := by
  simpa using ramRead_ofWords_from ws 0 k

theorem ramWrite_canonical {len : Nat} {m : Mem 32} {i : Nat} (v : Word) (hm : ramCanonical len m) (hi : i < len) :
    ramCanonical len (ramWrite m i v) := by
  unfold ramWrite
  split_ifs with hv
  · exact ⟨memErase_ordered i hm.1, fun c hc => hm.2 c (List.mem_filter.1 hc).1⟩
  · refine ⟨memInsert_ordered v hm.1 hi, fun c hc => ?_⟩
    rcases memInsert_mem hc with rfl | hc
    · exact hv
    · exact hm.2 c hc

theorem ramOfWords_lt (ws : List Word) (i : Nat) : ∀ cell ∈ ramOfWords i ws, cell.1 < i + ws.length := by
  induction ws generalizing i with
  | nil => simp [ramOfWords]
  | cons v rest ih =>
    intro cell hc
    simp only [List.length_cons]
    unfold ramOfWords at hc
    split_ifs at hc with hv
    · have := ih (i + 1) cell hc; omega
    · rcases List.mem_cons.1 hc with rfl | hc
      · simp
      · have := ih (i + 1) cell hc; omega

theorem ramOfWords_pairwise (ws : List Word) (i : Nat) : (ramOfWords i ws).Pairwise (fun x y => x.1 < y.1) := by
  induction ws generalizing i with
  | nil => simp [ramOfWords]
  | cons v rest ih =>
    unfold ramOfWords
    split_ifs with hv
    · exact ih (i + 1)
    · exact List.pairwise_cons.2 ⟨fun c hc => ramOfWords_ge rest (i + 1) c hc, ih (i + 1)⟩

theorem ramOfWords_ne (ws : List Word) (i : Nat) : ∀ cell ∈ ramOfWords i ws, cell.2 ≠ ramUnlisted := by
  induction ws generalizing i with
  | nil => simp [ramOfWords]
  | cons v rest ih =>
    intro cell hc
    unfold ramOfWords at hc
    split_ifs at hc with hv
    · exact ih (i + 1) cell hc
    · rcases List.mem_cons.1 hc with rfl | hc
      · exact hv
      · exact ih (i + 1) cell hc

theorem ramOfWords_canonical {len : Nat} (ws : List Word) (h : ws.length ≤ len) : ramCanonical len (ramOfWords 0 ws) :=
  ⟨⟨ramOfWords_pairwise ws 0, fun c hc => lt_of_lt_of_le (by simpa using ramOfWords_lt ws 0 c hc) h⟩,
    ramOfWords_ne ws 0⟩

/-! ## The spaces of the FXU -/

@[simp] theorem space_setSpace_self (m : Memory) (sp : RamSpace) (x : Mem 32) : (m.setSpace sp x).space sp = x := by
  cases sp <;> rfl

theorem space_setSpace_ne (m : Memory) {sp sp' : RamSpace} (x : Mem 32) (h : sp' ≠ sp) :
    (m.setSpace sp x).space sp' = m.space sp' := by
  cases sp <;> cases sp' <;> first | rfl | exact absurd rfl h

@[simp] theorem bank_setSpace (m : Memory) (sp : RamSpace) (x : Mem 32) (b : Bool) :
    (m.setSpace sp x).bank b = m.bank b := by cases sp <;> cases b <;> rfl

@[simp] theorem space_setBank (m : Memory) (b : Bool) (x : Mem 16) (sp : RamSpace) :
    (m.setBank b x).space sp = m.space sp := by cases b <;> cases sp <;> rfl

@[simp] theorem bank_setBank_self (m : Memory) (b : Bool) (x : Mem 16) : (m.setBank b x).bank b = x := by
  cases b <;> rfl

@[simp] theorem bank_setBank_not (m : Memory) (b : Bool) (x : Mem 16) : (m.setBank b x).bank (!b) = m.bank (!b) := by
  cases b <;> rfl

@[simp] theorem bank_setBank_not' (m : Memory) (b : Bool) (x : Mem 16) : (m.setBank (!b) x).bank b = m.bank b := by
  cases b <;> rfl

theorem bank_setBank_ne (m : Memory) {b b' : Bool} (x : Mem 16) (h : b' ≠ b) :
    (m.setBank b x).bank b' = m.bank b' := by cases b <;> cases b' <;> first | rfl | exact absurd rfl h

theorem word_fill (m : Memory) (sp : RamSpace) (ws : List Word) (i : Nat) :
    (m.fill sp ws).word sp i = ws.getD i 0 := by
  simp [Memory.word, Memory.fill, ramRead_ofWords]

theorem word_fill_ne (m : Memory) {sp sp' : RamSpace} (ws : List Word) (i : Nat) (h : sp' ≠ sp) :
    (m.fill sp ws).word sp' i = m.word sp' i := by
  simp [Memory.word, Memory.fill, space_setSpace_ne _ _ h]

@[simp] theorem bank_fill (m : Memory) (sp : RamSpace) (ws : List Word) (b : Bool) :
    (m.fill sp ws).bank b = m.bank b := by simp [Memory.fill]

@[simp] theorem word_setBank (m : Memory) (b : Bool) (x : Mem 16) (sp : RamSpace) (i : Nat) :
    (m.setBank b x).word sp i = m.word sp i := by simp [Memory.word]

/-- Filling a space from a list made over the indices below `n`. -/
theorem word_fill_range (m : Memory) (sp : RamSpace) (n : Nat) (g : Nat → Word) (i : Nat) :
    (m.fill sp ((List.range n).map g)).word sp i = if i < n then g i else 0 := by
  rw [word_fill]
  by_cases h : i < n
  · simp [List.getD_eq_getElem?_getD, h]
  · simp [List.getD_eq_getElem?_getD, h]

@[simp] theorem words_length (m : Memory) (sp : RamSpace) (n : Nat) : (m.words sp n).length = n := by
  simp [Memory.words]

theorem words_getD (m : Memory) (sp : RamSpace) (n i : Nat) :
    (m.words sp n).getD i 0 = if i < n then m.word sp i else 0 := by
  by_cases h : i < n
  · simp [Memory.words, List.getD_eq_getElem?_getD, h]
  · simp [Memory.words, List.getD_eq_getElem?_getD, h]

/-- Everything a checked write can do. -/
theorem store_cases (c : Config) (m : Memory) (sp : RamSpace) (i : Nat) (v : Word) :
    (i < spaceLen c sp ∧ Memory.store c m sp i v = .ok (m.setSpace sp (ramWrite (m.space sp) i v))) ∨
    (spaceLen c sp ≤ i ∧ Memory.store c m sp i v = .error (.noSuchWord sp)) := by
  unfold Memory.store
  split_ifs with h
  · exact .inl ⟨h, rfl⟩
  · exact .inr ⟨by omega, rfl⟩

/-- What a checked write that succeeds leaves: the word written, and every other word as it was. -/
theorem store_word {c : Config} {m m' : Memory} {sp : RamSpace} {i : Nat} {v : Word}
    (h : Memory.store c m sp i v = .ok m') (sp' : RamSpace) (k : Nat) :
    m'.word sp' k = if sp' = sp ∧ k = i then v else m.word sp' k := by
  rcases store_cases c m sp i v with ⟨_, h'⟩ | ⟨_, h'⟩
  · rw [h'] at h
    obtain rfl := Except.ok.inj h
    by_cases hs : sp' = sp
    · subst hs; simp [Memory.word, ramRead_write]
    · simp [Memory.word, space_setSpace_ne _ _ hs, hs]
  · rw [h'] at h; cases h

theorem store_bank {c : Config} {m m' : Memory} {sp : RamSpace} {i : Nat} {v : Word}
    (h : Memory.store c m sp i v = .ok m') (b : Bool) : m'.bank b = m.bank b := by
  rcases store_cases c m sp i v with ⟨_, h'⟩ | ⟨_, h'⟩
  · rw [h'] at h; obtain rfl := Except.ok.inj h; simp
  · rw [h'] at h; cases h

/-! ## The canonical form is kept -/

theorem setSpace_wf {c : Config} {m : Memory} {sp : RamSpace} {x : Mem 32} (hm : m.wf c)
    (hx : ramCanonical (spaceLen c sp) x) : (m.setSpace sp x).wf c := by
  obtain ⟨h0, h1, h2, h3, h4, h5, h6⟩ := hm
  cases sp
  · exact ⟨h0, h1, hx, h3, h4, h5, h6⟩
  · exact ⟨h0, h1, h2, hx, h4, h5, h6⟩
  · exact ⟨h0, h1, h2, h3, hx, h5, h6⟩
  · exact ⟨h0, h1, h2, h3, h4, hx, h6⟩
  · exact ⟨h0, h1, h2, h3, h4, h5, hx⟩

theorem space_canonical {c : Config} {m : Memory} (hm : m.wf c) (sp : RamSpace) :
    ramCanonical (spaceLen c sp) (m.space sp) := by
  obtain ⟨h0, h1, h2, h3, h4, h5, h6⟩ := hm
  cases sp <;> assumption

theorem setBank_wf {c : Config} {m : Memory} {b : Bool} {x : Mem 16} (hm : m.wf c)
    (hx : memOrdered (bufLen c) x) : (m.setBank b x).wf c := by
  obtain ⟨h0, h1, h2, h3, h4, h5, h6⟩ := hm
  cases b
  · exact ⟨hx, h1, h2, h3, h4, h5, h6⟩
  · exact ⟨h0, hx, h2, h3, h4, h5, h6⟩

theorem bank_ordered {c : Config} {m : Memory} (hm : m.wf c) (b : Bool) : memOrdered (bufLen c) (m.bank b) := by
  obtain ⟨h0, h1, _⟩ := hm
  cases b <;> assumption

theorem fill_wf {c : Config} {m : Memory} {sp : RamSpace} {ws : List Word} (hm : m.wf c)
    (h : ws.length ≤ spaceLen c sp) : (m.fill sp ws).wf c :=
  setSpace_wf hm (ramOfWords_canonical ws h)

theorem store_wf {c : Config} {m m' : Memory} {sp : RamSpace} {i : Nat} {v : Word} (hm : m.wf c)
    (h : Memory.store c m sp i v = .ok m') : m'.wf c := by
  rcases store_cases c m sp i v with ⟨hi, h'⟩ | ⟨_, h'⟩
  · rw [h'] at h
    obtain rfl := Except.ok.inj h
    exact setSpace_wf hm (ramWrite_canonical v (space_canonical hm sp) hi)
  · rw [h'] at h; cases h

theorem empty_wf (c : Config) : Memory.empty.wf c := by
  simp [Memory.wf, Memory.empty, memOrdered, ramCanonical]

@[simp] theorem empty_word (sp : RamSpace) (i : Nat) : Memory.empty.word sp i = 0 := by cases sp <;> rfl

@[simp] theorem empty_words (sp : RamSpace) (n : Nat) : Memory.empty.words sp n = List.replicate n 0 := by
  simp [Memory.words, List.eq_replicate_iff]

@[simp] theorem empty_bank (b : Bool) : Memory.empty.bank b = [] := by cases b <;> rfl

theorem reset_mem_wf : State.reset.mem.wf State.reset.cfg := empty_wf _

end Sys2Proof.Machine
end

