-- ==== Sys2Proof/Laws/State.lean ====
section
/-!
SUPPORT. One lemma per field for each named update of the state, true by rfl, so that no later proof unfolds a record
update. The fields an update leaves alone come first, then the ones it writes.
-/
namespace Sys2Proof.Machine

/-! ## raise -/

section
variable (cause : FatalCause) (s : State)

@[simp] theorem raise_opa : (raise cause s).opa = s.opa := rfl
@[simp] theorem raise_opb : (raise cause s).opb = s.opb := rfl
@[simp] theorem raise_resl : (raise cause s).resl = s.resl := rfl
@[simp] theorem raise_resh : (raise cause s).resh = s.resh := rfl
@[simp] theorem raise_ready : (raise cause s).ready = s.ready := rfl
@[simp] theorem raise_back : (raise cause s).back = s.back := rfl
@[simp] theorem raise_samperr : (raise cause s).samperr = s.samperr := rfl
@[simp] theorem raise_maprange : (raise cause s).maprange = s.maprange := rfl
@[simp] theorem raise_rkind : (raise cause s).rkind = s.rkind := rfl
@[simp] theorem raise_toneHigh : (raise cause s).toneHigh = s.toneHigh := rfl
@[simp] theorem raise_errcnt : (raise cause s).errcnt = s.errcnt := rfl
@[simp] theorem raise_dcmag : (raise cause s).dcmag = s.dcmag := rfl
@[simp] theorem raise_peakbin : (raise cause s).peakbin = s.peakbin := rfl
@[simp] theorem raise_peakmag : (raise cause s).peakmag = s.peakmag := rfl
@[simp] theorem raise_est : (raise cause s).est = s.est := rfl
@[simp] theorem raise_ravg : (raise cause s).ravg = s.ravg := rfl
@[simp] theorem raise_rdev : (raise cause s).rdev = s.rdev := rfl
@[simp] theorem raise_note : (raise cause s).note = s.note := rfl
@[simp] theorem raise_cents : (raise cause s).cents = s.cents := rfl
@[simp] theorem raise_beatsel : (raise cause s).beatsel = s.beatsel := rfl
@[simp] theorem raise_interval : (raise cause s).interval = s.interval := rfl
@[simp] theorem raise_cursor : (raise cause s).cursor = s.cursor := rfl
@[simp] theorem raise_outcnt : (raise cause s).outcnt = s.outcnt := rfl
@[simp] theorem raise_beatCnt : (raise cause s).beatCnt = s.beatCnt := rfl
@[simp] theorem raise_toffCnt : (raise cause s).toffCnt = s.toffCnt := rfl
@[simp] theorem raise_subbeat : (raise cause s).subbeat = s.subbeat := rfl
@[simp] theorem raise_mem : (raise cause s).mem = s.mem := rfl
@[simp] theorem raise_cfg : (raise cause s).cfg = s.cfg := rfl
@[simp] theorem raise_resets : (raise cause s).resets = s.resets := rfl
@[simp] theorem raise_events : (raise cause s).events = s.events := rfl
@[simp] theorem raise_reads : (raise cause s).reads = s.reads := rfl
@[simp] theorem raise_fcode : (raise cause s).fcode = causeCode cause := rfl
@[simp] theorem raise_fatal : (raise cause s).fatal = true := rfl
@[simp] theorem raise_beatArmed : (raise cause s).beatArmed = false := rfl
@[simp] theorem raise_toffArmed : (raise cause s).toffArmed = false := rfl
@[simp] theorem raise_toneOn : (raise cause s).toneOn = false := rfl

end

/-! ## resetEvent -/

section
variable (s : State)

@[simp] theorem resetEvent_cfg : (resetEvent s).cfg = s.cfg := rfl
@[simp] theorem resetEvent_events : (resetEvent s).events = s.events := rfl
@[simp] theorem resetEvent_reads : (resetEvent s).reads = s.reads := rfl
@[simp] theorem resetEvent_back : (resetEvent s).back = true := rfl
@[simp] theorem resetEvent_resets : (resetEvent s).resets = s.resets + 1 := rfl
@[simp] theorem resetEvent_opa : (resetEvent s).opa = 0 := rfl
@[simp] theorem resetEvent_opb : (resetEvent s).opb = 0 := rfl
@[simp] theorem resetEvent_resl : (resetEvent s).resl = 0 := rfl
@[simp] theorem resetEvent_resh : (resetEvent s).resh = 0 := rfl
@[simp] theorem resetEvent_ready : (resetEvent s).ready = false := rfl
@[simp] theorem resetEvent_fatal : (resetEvent s).fatal = false := rfl
@[simp] theorem resetEvent_fcode : (resetEvent s).fcode = 0 := rfl
@[simp] theorem resetEvent_samperr : (resetEvent s).samperr = false := rfl
@[simp] theorem resetEvent_maprange : (resetEvent s).maprange = false := rfl
@[simp] theorem resetEvent_rkind : (resetEvent s).rkind = 0 := rfl
@[simp] theorem resetEvent_toneOn : (resetEvent s).toneOn = false := rfl
@[simp] theorem resetEvent_toneHigh : (resetEvent s).toneHigh = false := rfl
@[simp] theorem resetEvent_beatArmed : (resetEvent s).beatArmed = false := rfl
@[simp] theorem resetEvent_toffArmed : (resetEvent s).toffArmed = false := rfl
@[simp] theorem resetEvent_errcnt : (resetEvent s).errcnt = 0 := rfl
@[simp] theorem resetEvent_dcmag : (resetEvent s).dcmag = 0 := rfl
@[simp] theorem resetEvent_peakbin : (resetEvent s).peakbin = 0 := rfl
@[simp] theorem resetEvent_peakmag : (resetEvent s).peakmag = 0 := rfl
@[simp] theorem resetEvent_est : (resetEvent s).est = 0 := rfl
@[simp] theorem resetEvent_ravg : (resetEvent s).ravg = 0 := rfl
@[simp] theorem resetEvent_rdev : (resetEvent s).rdev = 0 := rfl
@[simp] theorem resetEvent_note : (resetEvent s).note = 0 := rfl
@[simp] theorem resetEvent_cents : (resetEvent s).cents = 0 := rfl
@[simp] theorem resetEvent_beatsel : (resetEvent s).beatsel = 0 := rfl
@[simp] theorem resetEvent_interval : (resetEvent s).interval = 0 := rfl
@[simp] theorem resetEvent_cursor : (resetEvent s).cursor = 0 := rfl
@[simp] theorem resetEvent_outcnt : (resetEvent s).outcnt = 0 := rfl
@[simp] theorem resetEvent_beatCnt : (resetEvent s).beatCnt = 0 := rfl
@[simp] theorem resetEvent_toffCnt : (resetEvent s).toffCnt = 0 := rfl
@[simp] theorem resetEvent_subbeat : (resetEvent s).subbeat = 0 := rfl
@[simp] theorem resetEvent_mem : (resetEvent s).mem = Memory.empty := rfl

end

/-! ## recompute -/

section
variable (s : State)

@[simp] theorem recompute_opa : (recompute s).opa = s.opa := rfl
@[simp] theorem recompute_opb : (recompute s).opb = s.opb := rfl
@[simp] theorem recompute_resl : (recompute s).resl = s.resl := rfl
@[simp] theorem recompute_resh : (recompute s).resh = s.resh := rfl
@[simp] theorem recompute_ready : (recompute s).ready = s.ready := rfl
@[simp] theorem recompute_back : (recompute s).back = s.back := rfl
@[simp] theorem recompute_fatal : (recompute s).fatal = s.fatal := rfl
@[simp] theorem recompute_fcode : (recompute s).fcode = s.fcode := rfl
@[simp] theorem recompute_samperr : (recompute s).samperr = s.samperr := rfl
@[simp] theorem recompute_maprange : (recompute s).maprange = s.maprange := rfl
@[simp] theorem recompute_rkind : (recompute s).rkind = s.rkind := rfl
@[simp] theorem recompute_toneOn : (recompute s).toneOn = s.toneOn := rfl
@[simp] theorem recompute_toneHigh : (recompute s).toneHigh = s.toneHigh := rfl
@[simp] theorem recompute_beatArmed : (recompute s).beatArmed = s.beatArmed := rfl
@[simp] theorem recompute_toffArmed : (recompute s).toffArmed = s.toffArmed := rfl
@[simp] theorem recompute_errcnt : (recompute s).errcnt = s.errcnt := rfl
@[simp] theorem recompute_dcmag : (recompute s).dcmag = s.dcmag := rfl
@[simp] theorem recompute_peakbin : (recompute s).peakbin = s.peakbin := rfl
@[simp] theorem recompute_peakmag : (recompute s).peakmag = s.peakmag := rfl
@[simp] theorem recompute_est : (recompute s).est = s.est := rfl
@[simp] theorem recompute_note : (recompute s).note = s.note := rfl
@[simp] theorem recompute_cents : (recompute s).cents = s.cents := rfl
@[simp] theorem recompute_beatsel : (recompute s).beatsel = s.beatsel := rfl
@[simp] theorem recompute_interval : (recompute s).interval = s.interval := rfl
@[simp] theorem recompute_cursor : (recompute s).cursor = s.cursor := rfl
@[simp] theorem recompute_outcnt : (recompute s).outcnt = s.outcnt := rfl
@[simp] theorem recompute_beatCnt : (recompute s).beatCnt = s.beatCnt := rfl
@[simp] theorem recompute_toffCnt : (recompute s).toffCnt = s.toffCnt := rfl
@[simp] theorem recompute_subbeat : (recompute s).subbeat = s.subbeat := rfl
@[simp] theorem recompute_mem : (recompute s).mem = s.mem := rfl
@[simp] theorem recompute_cfg : (recompute s).cfg = s.cfg := rfl
@[simp] theorem recompute_resets : (recompute s).resets = s.resets := rfl
@[simp] theorem recompute_events : (recompute s).events = s.events := rfl
@[simp] theorem recompute_reads : (recompute s).reads = s.reads := rfl
@[simp] theorem recompute_ravg : (recompute s).ravg = meanOfFilled (s.mem.words .hist s.cfg.rollingItems) := rfl
@[simp] theorem recompute_rdev : (recompute s).rdev = fxmul (recompute s).ravg kDev := rfl

end

/-! ## regimeChange -/

section
variable (s : State)

@[simp] theorem regimeChange_opa : (regimeChange s).opa = s.opa := rfl
@[simp] theorem regimeChange_opb : (regimeChange s).opb = s.opb := rfl
@[simp] theorem regimeChange_resl : (regimeChange s).resl = s.resl := rfl
@[simp] theorem regimeChange_resh : (regimeChange s).resh = s.resh := rfl
@[simp] theorem regimeChange_ready : (regimeChange s).ready = s.ready := rfl
@[simp] theorem regimeChange_back : (regimeChange s).back = s.back := rfl
@[simp] theorem regimeChange_fatal : (regimeChange s).fatal = s.fatal := rfl
@[simp] theorem regimeChange_fcode : (regimeChange s).fcode = s.fcode := rfl
@[simp] theorem regimeChange_samperr : (regimeChange s).samperr = s.samperr := rfl
@[simp] theorem regimeChange_maprange : (regimeChange s).maprange = s.maprange := rfl
@[simp] theorem regimeChange_rkind : (regimeChange s).rkind = s.rkind := rfl
@[simp] theorem regimeChange_toneOn : (regimeChange s).toneOn = s.toneOn := rfl
@[simp] theorem regimeChange_toneHigh : (regimeChange s).toneHigh = s.toneHigh := rfl
@[simp] theorem regimeChange_beatArmed : (regimeChange s).beatArmed = s.beatArmed := rfl
@[simp] theorem regimeChange_toffArmed : (regimeChange s).toffArmed = s.toffArmed := rfl
@[simp] theorem regimeChange_errcnt : (regimeChange s).errcnt = s.errcnt := rfl
@[simp] theorem regimeChange_dcmag : (regimeChange s).dcmag = s.dcmag := rfl
@[simp] theorem regimeChange_peakbin : (regimeChange s).peakbin = s.peakbin := rfl
@[simp] theorem regimeChange_peakmag : (regimeChange s).peakmag = s.peakmag := rfl
@[simp] theorem regimeChange_est : (regimeChange s).est = s.est := rfl
@[simp] theorem regimeChange_note : (regimeChange s).note = s.note := rfl
@[simp] theorem regimeChange_cents : (regimeChange s).cents = s.cents := rfl
@[simp] theorem regimeChange_beatsel : (regimeChange s).beatsel = s.beatsel := rfl
@[simp] theorem regimeChange_interval : (regimeChange s).interval = s.interval := rfl
@[simp] theorem regimeChange_beatCnt : (regimeChange s).beatCnt = s.beatCnt := rfl
@[simp] theorem regimeChange_toffCnt : (regimeChange s).toffCnt = s.toffCnt := rfl
@[simp] theorem regimeChange_subbeat : (regimeChange s).subbeat = s.subbeat := rfl
@[simp] theorem regimeChange_cfg : (regimeChange s).cfg = s.cfg := rfl
@[simp] theorem regimeChange_resets : (regimeChange s).resets = s.resets := rfl
@[simp] theorem regimeChange_events : (regimeChange s).events = s.events := rfl
@[simp] theorem regimeChange_reads : (regimeChange s).reads = s.reads := rfl
@[simp] theorem regimeChange_cursor : (regimeChange s).cursor = s.cfg.outlierThresh % s.cfg.rollingItems := rfl
@[simp] theorem regimeChange_outcnt : (regimeChange s).outcnt = 0 := rfl
@[simp] theorem regimeChange_ravg : (regimeChange s).ravg = meanOfFilled ((regimeChange s).mem.words .hist s.cfg.rollingItems) := rfl
@[simp] theorem regimeChange_rdev : (regimeChange s).rdev = fxmul (regimeChange s).ravg kDev := rfl
theorem regimeChange_mem : (regimeChange s).mem = s.mem.fill .hist ((List.range s.cfg.rollingItems).map fun i =>
      if i < s.cfg.outlierThresh then s.mem.word .side i else 0) := rfl

end

/-! ## soundTone -/

section
variable (h : Bool) (s : State)

@[simp] theorem soundTone_opa : (soundTone h s).opa = s.opa := rfl
@[simp] theorem soundTone_opb : (soundTone h s).opb = s.opb := rfl
@[simp] theorem soundTone_resl : (soundTone h s).resl = s.resl := rfl
@[simp] theorem soundTone_resh : (soundTone h s).resh = s.resh := rfl
@[simp] theorem soundTone_ready : (soundTone h s).ready = s.ready := rfl
@[simp] theorem soundTone_back : (soundTone h s).back = s.back := rfl
@[simp] theorem soundTone_fatal : (soundTone h s).fatal = s.fatal := rfl
@[simp] theorem soundTone_fcode : (soundTone h s).fcode = s.fcode := rfl
@[simp] theorem soundTone_samperr : (soundTone h s).samperr = s.samperr := rfl
@[simp] theorem soundTone_maprange : (soundTone h s).maprange = s.maprange := rfl
@[simp] theorem soundTone_rkind : (soundTone h s).rkind = s.rkind := rfl
@[simp] theorem soundTone_beatArmed : (soundTone h s).beatArmed = s.beatArmed := rfl
@[simp] theorem soundTone_errcnt : (soundTone h s).errcnt = s.errcnt := rfl
@[simp] theorem soundTone_dcmag : (soundTone h s).dcmag = s.dcmag := rfl
@[simp] theorem soundTone_peakbin : (soundTone h s).peakbin = s.peakbin := rfl
@[simp] theorem soundTone_peakmag : (soundTone h s).peakmag = s.peakmag := rfl
@[simp] theorem soundTone_est : (soundTone h s).est = s.est := rfl
@[simp] theorem soundTone_ravg : (soundTone h s).ravg = s.ravg := rfl
@[simp] theorem soundTone_rdev : (soundTone h s).rdev = s.rdev := rfl
@[simp] theorem soundTone_note : (soundTone h s).note = s.note := rfl
@[simp] theorem soundTone_cents : (soundTone h s).cents = s.cents := rfl
@[simp] theorem soundTone_beatsel : (soundTone h s).beatsel = s.beatsel := rfl
@[simp] theorem soundTone_interval : (soundTone h s).interval = s.interval := rfl
@[simp] theorem soundTone_cursor : (soundTone h s).cursor = s.cursor := rfl
@[simp] theorem soundTone_outcnt : (soundTone h s).outcnt = s.outcnt := rfl
@[simp] theorem soundTone_beatCnt : (soundTone h s).beatCnt = s.beatCnt := rfl
@[simp] theorem soundTone_subbeat : (soundTone h s).subbeat = s.subbeat := rfl
@[simp] theorem soundTone_mem : (soundTone h s).mem = s.mem := rfl
@[simp] theorem soundTone_cfg : (soundTone h s).cfg = s.cfg := rfl
@[simp] theorem soundTone_resets : (soundTone h s).resets = s.resets := rfl
@[simp] theorem soundTone_events : (soundTone h s).events = s.events := rfl
@[simp] theorem soundTone_reads : (soundTone h s).reads = s.reads := rfl
@[simp] theorem soundTone_toneOn : (soundTone h s).toneOn = true := rfl
@[simp] theorem soundTone_toneHigh : (soundTone h s).toneHigh = h := rfl
@[simp] theorem soundTone_toffCnt : (soundTone h s).toffCnt = s.cfg.toneMs := rfl
@[simp] theorem soundTone_toffArmed : (soundTone h s).toffArmed = true := rfl

end

/-! ## withEvents -/

section
variable (es : List Event) (s : State)

@[simp] theorem withEvents_opa : (withEvents es s).opa = s.opa := rfl
@[simp] theorem withEvents_opb : (withEvents es s).opb = s.opb := rfl
@[simp] theorem withEvents_resl : (withEvents es s).resl = s.resl := rfl
@[simp] theorem withEvents_resh : (withEvents es s).resh = s.resh := rfl
@[simp] theorem withEvents_ready : (withEvents es s).ready = s.ready := rfl
@[simp] theorem withEvents_back : (withEvents es s).back = s.back := rfl
@[simp] theorem withEvents_fatal : (withEvents es s).fatal = s.fatal := rfl
@[simp] theorem withEvents_fcode : (withEvents es s).fcode = s.fcode := rfl
@[simp] theorem withEvents_samperr : (withEvents es s).samperr = s.samperr := rfl
@[simp] theorem withEvents_maprange : (withEvents es s).maprange = s.maprange := rfl
@[simp] theorem withEvents_rkind : (withEvents es s).rkind = s.rkind := rfl
@[simp] theorem withEvents_toneOn : (withEvents es s).toneOn = s.toneOn := rfl
@[simp] theorem withEvents_toneHigh : (withEvents es s).toneHigh = s.toneHigh := rfl
@[simp] theorem withEvents_beatArmed : (withEvents es s).beatArmed = s.beatArmed := rfl
@[simp] theorem withEvents_toffArmed : (withEvents es s).toffArmed = s.toffArmed := rfl
@[simp] theorem withEvents_errcnt : (withEvents es s).errcnt = s.errcnt := rfl
@[simp] theorem withEvents_dcmag : (withEvents es s).dcmag = s.dcmag := rfl
@[simp] theorem withEvents_peakbin : (withEvents es s).peakbin = s.peakbin := rfl
@[simp] theorem withEvents_peakmag : (withEvents es s).peakmag = s.peakmag := rfl
@[simp] theorem withEvents_est : (withEvents es s).est = s.est := rfl
@[simp] theorem withEvents_ravg : (withEvents es s).ravg = s.ravg := rfl
@[simp] theorem withEvents_rdev : (withEvents es s).rdev = s.rdev := rfl
@[simp] theorem withEvents_note : (withEvents es s).note = s.note := rfl
@[simp] theorem withEvents_cents : (withEvents es s).cents = s.cents := rfl
@[simp] theorem withEvents_beatsel : (withEvents es s).beatsel = s.beatsel := rfl
@[simp] theorem withEvents_interval : (withEvents es s).interval = s.interval := rfl
@[simp] theorem withEvents_cursor : (withEvents es s).cursor = s.cursor := rfl
@[simp] theorem withEvents_outcnt : (withEvents es s).outcnt = s.outcnt := rfl
@[simp] theorem withEvents_beatCnt : (withEvents es s).beatCnt = s.beatCnt := rfl
@[simp] theorem withEvents_toffCnt : (withEvents es s).toffCnt = s.toffCnt := rfl
@[simp] theorem withEvents_subbeat : (withEvents es s).subbeat = s.subbeat := rfl
@[simp] theorem withEvents_mem : (withEvents es s).mem = s.mem := rfl
@[simp] theorem withEvents_cfg : (withEvents es s).cfg = s.cfg := rfl
@[simp] theorem withEvents_resets : (withEvents es s).resets = s.resets := rfl
@[simp] theorem withEvents_reads : (withEvents es s).reads = s.reads := rfl
@[simp] theorem withEvents_events : (withEvents es s).events = es ++ s.events := rfl

end

/-! ## withCommandNext -/

section
variable (v : Word) (s : State)

@[simp] theorem withCommandNext_opa : (withCommandNext v s).opa = s.opa := rfl
@[simp] theorem withCommandNext_opb : (withCommandNext v s).opb = s.opb := rfl
@[simp] theorem withCommandNext_resl : (withCommandNext v s).resl = s.resl := rfl
@[simp] theorem withCommandNext_resh : (withCommandNext v s).resh = s.resh := rfl
@[simp] theorem withCommandNext_ready : (withCommandNext v s).ready = s.ready := rfl
@[simp] theorem withCommandNext_back : (withCommandNext v s).back = s.back := rfl
@[simp] theorem withCommandNext_fatal : (withCommandNext v s).fatal = s.fatal := rfl
@[simp] theorem withCommandNext_fcode : (withCommandNext v s).fcode = s.fcode := rfl
@[simp] theorem withCommandNext_samperr : (withCommandNext v s).samperr = s.samperr := rfl
@[simp] theorem withCommandNext_maprange : (withCommandNext v s).maprange = s.maprange := rfl
@[simp] theorem withCommandNext_rkind : (withCommandNext v s).rkind = s.rkind := rfl
@[simp] theorem withCommandNext_toneOn : (withCommandNext v s).toneOn = s.toneOn := rfl
@[simp] theorem withCommandNext_toneHigh : (withCommandNext v s).toneHigh = s.toneHigh := rfl
@[simp] theorem withCommandNext_beatArmed : (withCommandNext v s).beatArmed = s.beatArmed := rfl
@[simp] theorem withCommandNext_toffArmed : (withCommandNext v s).toffArmed = s.toffArmed := rfl
@[simp] theorem withCommandNext_errcnt : (withCommandNext v s).errcnt = s.errcnt := rfl
@[simp] theorem withCommandNext_dcmag : (withCommandNext v s).dcmag = s.dcmag := rfl
@[simp] theorem withCommandNext_peakbin : (withCommandNext v s).peakbin = s.peakbin := rfl
@[simp] theorem withCommandNext_peakmag : (withCommandNext v s).peakmag = s.peakmag := rfl
@[simp] theorem withCommandNext_est : (withCommandNext v s).est = s.est := rfl
@[simp] theorem withCommandNext_ravg : (withCommandNext v s).ravg = s.ravg := rfl
@[simp] theorem withCommandNext_rdev : (withCommandNext v s).rdev = s.rdev := rfl
@[simp] theorem withCommandNext_note : (withCommandNext v s).note = s.note := rfl
@[simp] theorem withCommandNext_cents : (withCommandNext v s).cents = s.cents := rfl
@[simp] theorem withCommandNext_beatsel : (withCommandNext v s).beatsel = s.beatsel := rfl
@[simp] theorem withCommandNext_interval : (withCommandNext v s).interval = s.interval := rfl
@[simp] theorem withCommandNext_cursor : (withCommandNext v s).cursor = s.cursor := rfl
@[simp] theorem withCommandNext_outcnt : (withCommandNext v s).outcnt = s.outcnt := rfl
@[simp] theorem withCommandNext_beatCnt : (withCommandNext v s).beatCnt = s.beatCnt := rfl
@[simp] theorem withCommandNext_toffCnt : (withCommandNext v s).toffCnt = s.toffCnt := rfl
@[simp] theorem withCommandNext_subbeat : (withCommandNext v s).subbeat = s.subbeat := rfl
@[simp] theorem withCommandNext_mem : (withCommandNext v s).mem = s.mem := rfl
@[simp] theorem withCommandNext_cfg : (withCommandNext v s).cfg = s.cfg := rfl
@[simp] theorem withCommandNext_resets : (withCommandNext v s).resets = s.resets := rfl
@[simp] theorem withCommandNext_reads : (withCommandNext v s).reads = s.reads := rfl
@[simp] theorem withCommandNext_events : (withCommandNext v s).events = .hostWrite 0 v :: s.events := rfl

end

/-! ## s1Ingest -/

section
variable (s : State)

@[simp] theorem s1Ingest_opa : (s1Ingest s).opa = s.opa := rfl
@[simp] theorem s1Ingest_opb : (s1Ingest s).opb = s.opb := rfl
@[simp] theorem s1Ingest_resl : (s1Ingest s).resl = s.resl := rfl
@[simp] theorem s1Ingest_resh : (s1Ingest s).resh = s.resh := rfl
@[simp] theorem s1Ingest_back : (s1Ingest s).back = s.back := rfl
@[simp] theorem s1Ingest_fatal : (s1Ingest s).fatal = s.fatal := rfl
@[simp] theorem s1Ingest_fcode : (s1Ingest s).fcode = s.fcode := rfl
@[simp] theorem s1Ingest_maprange : (s1Ingest s).maprange = s.maprange := rfl
@[simp] theorem s1Ingest_rkind : (s1Ingest s).rkind = s.rkind := rfl
@[simp] theorem s1Ingest_toneOn : (s1Ingest s).toneOn = s.toneOn := rfl
@[simp] theorem s1Ingest_toneHigh : (s1Ingest s).toneHigh = s.toneHigh := rfl
@[simp] theorem s1Ingest_beatArmed : (s1Ingest s).beatArmed = s.beatArmed := rfl
@[simp] theorem s1Ingest_toffArmed : (s1Ingest s).toffArmed = s.toffArmed := rfl
@[simp] theorem s1Ingest_dcmag : (s1Ingest s).dcmag = s.dcmag := rfl
@[simp] theorem s1Ingest_peakbin : (s1Ingest s).peakbin = s.peakbin := rfl
@[simp] theorem s1Ingest_peakmag : (s1Ingest s).peakmag = s.peakmag := rfl
@[simp] theorem s1Ingest_est : (s1Ingest s).est = s.est := rfl
@[simp] theorem s1Ingest_ravg : (s1Ingest s).ravg = s.ravg := rfl
@[simp] theorem s1Ingest_rdev : (s1Ingest s).rdev = s.rdev := rfl
@[simp] theorem s1Ingest_note : (s1Ingest s).note = s.note := rfl
@[simp] theorem s1Ingest_cents : (s1Ingest s).cents = s.cents := rfl
@[simp] theorem s1Ingest_beatsel : (s1Ingest s).beatsel = s.beatsel := rfl
@[simp] theorem s1Ingest_interval : (s1Ingest s).interval = s.interval := rfl
@[simp] theorem s1Ingest_cursor : (s1Ingest s).cursor = s.cursor := rfl
@[simp] theorem s1Ingest_outcnt : (s1Ingest s).outcnt = s.outcnt := rfl
@[simp] theorem s1Ingest_beatCnt : (s1Ingest s).beatCnt = s.beatCnt := rfl
@[simp] theorem s1Ingest_toffCnt : (s1Ingest s).toffCnt = s.toffCnt := rfl
@[simp] theorem s1Ingest_subbeat : (s1Ingest s).subbeat = s.subbeat := rfl
@[simp] theorem s1Ingest_cfg : (s1Ingest s).cfg = s.cfg := rfl
@[simp] theorem s1Ingest_resets : (s1Ingest s).resets = s.resets := rfl
@[simp] theorem s1Ingest_events : (s1Ingest s).events = s.events := rfl
@[simp] theorem s1Ingest_reads : (s1Ingest s).reads = s.reads := rfl
@[simp] theorem s1Ingest_ready : (s1Ingest s).ready = false := rfl
theorem s1Ingest_errcnt : (s1Ingest s).errcnt = BitVec.ofNat 32 ((bankWords s s.back).countP sampleFlag) := rfl
theorem s1Ingest_samperr : (s1Ingest s).samperr = decide (0 < (bankWords s s.back).countP sampleFlag) := rfl
theorem s1Ingest_mem : (s1Ingest s).mem = ((s.mem.setBank s.back (scrubBank 0 (bankWords s s.back) (s.mem.bank s.back))).fill .fr
      ((bankWords s s.back).map fun w => i2fx (sampleReading w))).fill .fi ((bankWords s s.back).map fun _ => 0) := rfl

end

/-! ## s2Window -/

section
variable (s : State)

@[simp] theorem s2Window_opa : (s2Window s).opa = s.opa := rfl
@[simp] theorem s2Window_opb : (s2Window s).opb = s.opb := rfl
@[simp] theorem s2Window_resl : (s2Window s).resl = s.resl := rfl
@[simp] theorem s2Window_resh : (s2Window s).resh = s.resh := rfl
@[simp] theorem s2Window_ready : (s2Window s).ready = s.ready := rfl
@[simp] theorem s2Window_back : (s2Window s).back = s.back := rfl
@[simp] theorem s2Window_fatal : (s2Window s).fatal = s.fatal := rfl
@[simp] theorem s2Window_fcode : (s2Window s).fcode = s.fcode := rfl
@[simp] theorem s2Window_samperr : (s2Window s).samperr = s.samperr := rfl
@[simp] theorem s2Window_maprange : (s2Window s).maprange = s.maprange := rfl
@[simp] theorem s2Window_rkind : (s2Window s).rkind = s.rkind := rfl
@[simp] theorem s2Window_toneOn : (s2Window s).toneOn = s.toneOn := rfl
@[simp] theorem s2Window_toneHigh : (s2Window s).toneHigh = s.toneHigh := rfl
@[simp] theorem s2Window_beatArmed : (s2Window s).beatArmed = s.beatArmed := rfl
@[simp] theorem s2Window_toffArmed : (s2Window s).toffArmed = s.toffArmed := rfl
@[simp] theorem s2Window_errcnt : (s2Window s).errcnt = s.errcnt := rfl
@[simp] theorem s2Window_dcmag : (s2Window s).dcmag = s.dcmag := rfl
@[simp] theorem s2Window_peakbin : (s2Window s).peakbin = s.peakbin := rfl
@[simp] theorem s2Window_peakmag : (s2Window s).peakmag = s.peakmag := rfl
@[simp] theorem s2Window_est : (s2Window s).est = s.est := rfl
@[simp] theorem s2Window_ravg : (s2Window s).ravg = s.ravg := rfl
@[simp] theorem s2Window_rdev : (s2Window s).rdev = s.rdev := rfl
@[simp] theorem s2Window_note : (s2Window s).note = s.note := rfl
@[simp] theorem s2Window_cents : (s2Window s).cents = s.cents := rfl
@[simp] theorem s2Window_beatsel : (s2Window s).beatsel = s.beatsel := rfl
@[simp] theorem s2Window_interval : (s2Window s).interval = s.interval := rfl
@[simp] theorem s2Window_cursor : (s2Window s).cursor = s.cursor := rfl
@[simp] theorem s2Window_outcnt : (s2Window s).outcnt = s.outcnt := rfl
@[simp] theorem s2Window_beatCnt : (s2Window s).beatCnt = s.beatCnt := rfl
@[simp] theorem s2Window_toffCnt : (s2Window s).toffCnt = s.toffCnt := rfl
@[simp] theorem s2Window_subbeat : (s2Window s).subbeat = s.subbeat := rfl
@[simp] theorem s2Window_cfg : (s2Window s).cfg = s.cfg := rfl
@[simp] theorem s2Window_resets : (s2Window s).resets = s.resets := rfl
@[simp] theorem s2Window_events : (s2Window s).events = s.events := rfl
@[simp] theorem s2Window_reads : (s2Window s).reads = s.reads := rfl
theorem s2Window_mem : (s2Window s).mem = s.mem.fill .fr ((List.range (bufLen s.cfg)).map fun k =>
      fxmul (s.mem.word .fr k) (windowCoeff s.cfg k)) := rfl

end

/-! ## s3Permute -/

section
variable (s : State)

@[simp] theorem s3Permute_opa : (s3Permute s).opa = s.opa := rfl
@[simp] theorem s3Permute_opb : (s3Permute s).opb = s.opb := rfl
@[simp] theorem s3Permute_resl : (s3Permute s).resl = s.resl := rfl
@[simp] theorem s3Permute_resh : (s3Permute s).resh = s.resh := rfl
@[simp] theorem s3Permute_ready : (s3Permute s).ready = s.ready := rfl
@[simp] theorem s3Permute_back : (s3Permute s).back = s.back := rfl
@[simp] theorem s3Permute_fatal : (s3Permute s).fatal = s.fatal := rfl
@[simp] theorem s3Permute_fcode : (s3Permute s).fcode = s.fcode := rfl
@[simp] theorem s3Permute_samperr : (s3Permute s).samperr = s.samperr := rfl
@[simp] theorem s3Permute_maprange : (s3Permute s).maprange = s.maprange := rfl
@[simp] theorem s3Permute_rkind : (s3Permute s).rkind = s.rkind := rfl
@[simp] theorem s3Permute_toneOn : (s3Permute s).toneOn = s.toneOn := rfl
@[simp] theorem s3Permute_toneHigh : (s3Permute s).toneHigh = s.toneHigh := rfl
@[simp] theorem s3Permute_beatArmed : (s3Permute s).beatArmed = s.beatArmed := rfl
@[simp] theorem s3Permute_toffArmed : (s3Permute s).toffArmed = s.toffArmed := rfl
@[simp] theorem s3Permute_errcnt : (s3Permute s).errcnt = s.errcnt := rfl
@[simp] theorem s3Permute_dcmag : (s3Permute s).dcmag = s.dcmag := rfl
@[simp] theorem s3Permute_peakbin : (s3Permute s).peakbin = s.peakbin := rfl
@[simp] theorem s3Permute_peakmag : (s3Permute s).peakmag = s.peakmag := rfl
@[simp] theorem s3Permute_est : (s3Permute s).est = s.est := rfl
@[simp] theorem s3Permute_ravg : (s3Permute s).ravg = s.ravg := rfl
@[simp] theorem s3Permute_rdev : (s3Permute s).rdev = s.rdev := rfl
@[simp] theorem s3Permute_note : (s3Permute s).note = s.note := rfl
@[simp] theorem s3Permute_cents : (s3Permute s).cents = s.cents := rfl
@[simp] theorem s3Permute_beatsel : (s3Permute s).beatsel = s.beatsel := rfl
@[simp] theorem s3Permute_interval : (s3Permute s).interval = s.interval := rfl
@[simp] theorem s3Permute_cursor : (s3Permute s).cursor = s.cursor := rfl
@[simp] theorem s3Permute_outcnt : (s3Permute s).outcnt = s.outcnt := rfl
@[simp] theorem s3Permute_beatCnt : (s3Permute s).beatCnt = s.beatCnt := rfl
@[simp] theorem s3Permute_toffCnt : (s3Permute s).toffCnt = s.toffCnt := rfl
@[simp] theorem s3Permute_subbeat : (s3Permute s).subbeat = s.subbeat := rfl
@[simp] theorem s3Permute_cfg : (s3Permute s).cfg = s.cfg := rfl
@[simp] theorem s3Permute_resets : (s3Permute s).resets = s.resets := rfl
@[simp] theorem s3Permute_events : (s3Permute s).events = s.events := rfl
@[simp] theorem s3Permute_reads : (s3Permute s).reads = s.reads := rfl
theorem s3Permute_mem : (s3Permute s).mem = (s.mem.fill .fr (permuted s.cfg s.mem .fr)).fill .fi (permuted s.cfg s.mem .fi) := rfl

end

/-! ## s4Butterflies -/

section
variable (s : State)

@[simp] theorem s4Butterflies_opa : (s4Butterflies s).opa = s.opa := rfl
@[simp] theorem s4Butterflies_opb : (s4Butterflies s).opb = s.opb := rfl
@[simp] theorem s4Butterflies_resl : (s4Butterflies s).resl = s.resl := rfl
@[simp] theorem s4Butterflies_resh : (s4Butterflies s).resh = s.resh := rfl
@[simp] theorem s4Butterflies_ready : (s4Butterflies s).ready = s.ready := rfl
@[simp] theorem s4Butterflies_back : (s4Butterflies s).back = s.back := rfl
@[simp] theorem s4Butterflies_fatal : (s4Butterflies s).fatal = s.fatal := rfl
@[simp] theorem s4Butterflies_fcode : (s4Butterflies s).fcode = s.fcode := rfl
@[simp] theorem s4Butterflies_samperr : (s4Butterflies s).samperr = s.samperr := rfl
@[simp] theorem s4Butterflies_maprange : (s4Butterflies s).maprange = s.maprange := rfl
@[simp] theorem s4Butterflies_rkind : (s4Butterflies s).rkind = s.rkind := rfl
@[simp] theorem s4Butterflies_toneOn : (s4Butterflies s).toneOn = s.toneOn := rfl
@[simp] theorem s4Butterflies_toneHigh : (s4Butterflies s).toneHigh = s.toneHigh := rfl
@[simp] theorem s4Butterflies_beatArmed : (s4Butterflies s).beatArmed = s.beatArmed := rfl
@[simp] theorem s4Butterflies_toffArmed : (s4Butterflies s).toffArmed = s.toffArmed := rfl
@[simp] theorem s4Butterflies_errcnt : (s4Butterflies s).errcnt = s.errcnt := rfl
@[simp] theorem s4Butterflies_dcmag : (s4Butterflies s).dcmag = s.dcmag := rfl
@[simp] theorem s4Butterflies_peakbin : (s4Butterflies s).peakbin = s.peakbin := rfl
@[simp] theorem s4Butterflies_peakmag : (s4Butterflies s).peakmag = s.peakmag := rfl
@[simp] theorem s4Butterflies_est : (s4Butterflies s).est = s.est := rfl
@[simp] theorem s4Butterflies_ravg : (s4Butterflies s).ravg = s.ravg := rfl
@[simp] theorem s4Butterflies_rdev : (s4Butterflies s).rdev = s.rdev := rfl
@[simp] theorem s4Butterflies_note : (s4Butterflies s).note = s.note := rfl
@[simp] theorem s4Butterflies_cents : (s4Butterflies s).cents = s.cents := rfl
@[simp] theorem s4Butterflies_beatsel : (s4Butterflies s).beatsel = s.beatsel := rfl
@[simp] theorem s4Butterflies_interval : (s4Butterflies s).interval = s.interval := rfl
@[simp] theorem s4Butterflies_cursor : (s4Butterflies s).cursor = s.cursor := rfl
@[simp] theorem s4Butterflies_outcnt : (s4Butterflies s).outcnt = s.outcnt := rfl
@[simp] theorem s4Butterflies_beatCnt : (s4Butterflies s).beatCnt = s.beatCnt := rfl
@[simp] theorem s4Butterflies_toffCnt : (s4Butterflies s).toffCnt = s.toffCnt := rfl
@[simp] theorem s4Butterflies_subbeat : (s4Butterflies s).subbeat = s.subbeat := rfl
@[simp] theorem s4Butterflies_cfg : (s4Butterflies s).cfg = s.cfg := rfl
@[simp] theorem s4Butterflies_resets : (s4Butterflies s).resets = s.resets := rfl
@[simp] theorem s4Butterflies_events : (s4Butterflies s).events = s.events := rfl
@[simp] theorem s4Butterflies_reads : (s4Butterflies s).reads = s.reads := rfl
theorem s4Butterflies_mem : (s4Butterflies s).mem = (s.mem.fill .fr
      (fftRun s.cfg (s.mem.words .fr (bufLen s.cfg), s.mem.words .fi (bufLen s.cfg))).1).fill .fi
      (fftRun s.cfg (s.mem.words .fr (bufLen s.cfg), s.mem.words .fi (bufLen s.cfg))).2 := rfl

end

/-! ## s4Magnitude -/

section
variable (s : State)

@[simp] theorem s4Magnitude_opa : (s4Magnitude s).opa = s.opa := rfl
@[simp] theorem s4Magnitude_opb : (s4Magnitude s).opb = s.opb := rfl
@[simp] theorem s4Magnitude_resl : (s4Magnitude s).resl = s.resl := rfl
@[simp] theorem s4Magnitude_resh : (s4Magnitude s).resh = s.resh := rfl
@[simp] theorem s4Magnitude_ready : (s4Magnitude s).ready = s.ready := rfl
@[simp] theorem s4Magnitude_back : (s4Magnitude s).back = s.back := rfl
@[simp] theorem s4Magnitude_fatal : (s4Magnitude s).fatal = s.fatal := rfl
@[simp] theorem s4Magnitude_fcode : (s4Magnitude s).fcode = s.fcode := rfl
@[simp] theorem s4Magnitude_samperr : (s4Magnitude s).samperr = s.samperr := rfl
@[simp] theorem s4Magnitude_maprange : (s4Magnitude s).maprange = s.maprange := rfl
@[simp] theorem s4Magnitude_rkind : (s4Magnitude s).rkind = s.rkind := rfl
@[simp] theorem s4Magnitude_toneOn : (s4Magnitude s).toneOn = s.toneOn := rfl
@[simp] theorem s4Magnitude_toneHigh : (s4Magnitude s).toneHigh = s.toneHigh := rfl
@[simp] theorem s4Magnitude_beatArmed : (s4Magnitude s).beatArmed = s.beatArmed := rfl
@[simp] theorem s4Magnitude_toffArmed : (s4Magnitude s).toffArmed = s.toffArmed := rfl
@[simp] theorem s4Magnitude_errcnt : (s4Magnitude s).errcnt = s.errcnt := rfl
@[simp] theorem s4Magnitude_dcmag : (s4Magnitude s).dcmag = s.dcmag := rfl
@[simp] theorem s4Magnitude_peakbin : (s4Magnitude s).peakbin = s.peakbin := rfl
@[simp] theorem s4Magnitude_peakmag : (s4Magnitude s).peakmag = s.peakmag := rfl
@[simp] theorem s4Magnitude_est : (s4Magnitude s).est = s.est := rfl
@[simp] theorem s4Magnitude_ravg : (s4Magnitude s).ravg = s.ravg := rfl
@[simp] theorem s4Magnitude_rdev : (s4Magnitude s).rdev = s.rdev := rfl
@[simp] theorem s4Magnitude_note : (s4Magnitude s).note = s.note := rfl
@[simp] theorem s4Magnitude_cents : (s4Magnitude s).cents = s.cents := rfl
@[simp] theorem s4Magnitude_beatsel : (s4Magnitude s).beatsel = s.beatsel := rfl
@[simp] theorem s4Magnitude_interval : (s4Magnitude s).interval = s.interval := rfl
@[simp] theorem s4Magnitude_cursor : (s4Magnitude s).cursor = s.cursor := rfl
@[simp] theorem s4Magnitude_outcnt : (s4Magnitude s).outcnt = s.outcnt := rfl
@[simp] theorem s4Magnitude_beatCnt : (s4Magnitude s).beatCnt = s.beatCnt := rfl
@[simp] theorem s4Magnitude_toffCnt : (s4Magnitude s).toffCnt = s.toffCnt := rfl
@[simp] theorem s4Magnitude_subbeat : (s4Magnitude s).subbeat = s.subbeat := rfl
@[simp] theorem s4Magnitude_cfg : (s4Magnitude s).cfg = s.cfg := rfl
@[simp] theorem s4Magnitude_resets : (s4Magnitude s).resets = s.resets := rfl
@[simp] theorem s4Magnitude_events : (s4Magnitude s).events = s.events := rfl
@[simp] theorem s4Magnitude_reads : (s4Magnitude s).reads = s.reads := rfl
theorem s4Magnitude_mem : (s4Magnitude s).mem = s.mem.fill .fr ((List.range (bufLen s.cfg)).map fun k =>
      magnitude s.cfg (s.mem.word .fr k) (s.mem.word .fi k)) := rfl

end

/-! ## s4Fft -/

section
variable (s : State)

@[simp] theorem s4Fft_opa : (s4Fft s).opa = s.opa := rfl
@[simp] theorem s4Fft_opb : (s4Fft s).opb = s.opb := rfl
@[simp] theorem s4Fft_resl : (s4Fft s).resl = s.resl := rfl
@[simp] theorem s4Fft_resh : (s4Fft s).resh = s.resh := rfl
@[simp] theorem s4Fft_ready : (s4Fft s).ready = s.ready := rfl
@[simp] theorem s4Fft_back : (s4Fft s).back = s.back := rfl
@[simp] theorem s4Fft_fatal : (s4Fft s).fatal = s.fatal := rfl
@[simp] theorem s4Fft_fcode : (s4Fft s).fcode = s.fcode := rfl
@[simp] theorem s4Fft_samperr : (s4Fft s).samperr = s.samperr := rfl
@[simp] theorem s4Fft_maprange : (s4Fft s).maprange = s.maprange := rfl
@[simp] theorem s4Fft_rkind : (s4Fft s).rkind = s.rkind := rfl
@[simp] theorem s4Fft_toneOn : (s4Fft s).toneOn = s.toneOn := rfl
@[simp] theorem s4Fft_toneHigh : (s4Fft s).toneHigh = s.toneHigh := rfl
@[simp] theorem s4Fft_beatArmed : (s4Fft s).beatArmed = s.beatArmed := rfl
@[simp] theorem s4Fft_toffArmed : (s4Fft s).toffArmed = s.toffArmed := rfl
@[simp] theorem s4Fft_errcnt : (s4Fft s).errcnt = s.errcnt := rfl
@[simp] theorem s4Fft_dcmag : (s4Fft s).dcmag = s.dcmag := rfl
@[simp] theorem s4Fft_peakbin : (s4Fft s).peakbin = s.peakbin := rfl
@[simp] theorem s4Fft_peakmag : (s4Fft s).peakmag = s.peakmag := rfl
@[simp] theorem s4Fft_est : (s4Fft s).est = s.est := rfl
@[simp] theorem s4Fft_ravg : (s4Fft s).ravg = s.ravg := rfl
@[simp] theorem s4Fft_rdev : (s4Fft s).rdev = s.rdev := rfl
@[simp] theorem s4Fft_note : (s4Fft s).note = s.note := rfl
@[simp] theorem s4Fft_cents : (s4Fft s).cents = s.cents := rfl
@[simp] theorem s4Fft_beatsel : (s4Fft s).beatsel = s.beatsel := rfl
@[simp] theorem s4Fft_interval : (s4Fft s).interval = s.interval := rfl
@[simp] theorem s4Fft_cursor : (s4Fft s).cursor = s.cursor := rfl
@[simp] theorem s4Fft_outcnt : (s4Fft s).outcnt = s.outcnt := rfl
@[simp] theorem s4Fft_beatCnt : (s4Fft s).beatCnt = s.beatCnt := rfl
@[simp] theorem s4Fft_toffCnt : (s4Fft s).toffCnt = s.toffCnt := rfl
@[simp] theorem s4Fft_subbeat : (s4Fft s).subbeat = s.subbeat := rfl
@[simp] theorem s4Fft_cfg : (s4Fft s).cfg = s.cfg := rfl
@[simp] theorem s4Fft_resets : (s4Fft s).resets = s.resets := rfl
@[simp] theorem s4Fft_events : (s4Fft s).events = s.events := rfl
@[simp] theorem s4Fft_reads : (s4Fft s).reads = s.reads := rfl
theorem s4Fft_mem : (s4Fft s).mem = (s4Magnitude (s4Butterflies s)).mem := rfl

end

/-! ## s5Peak -/

section
variable (s : State)

@[simp] theorem s5Peak_opa : (s5Peak s).opa = s.opa := rfl
@[simp] theorem s5Peak_opb : (s5Peak s).opb = s.opb := rfl
@[simp] theorem s5Peak_resl : (s5Peak s).resl = s.resl := rfl
@[simp] theorem s5Peak_resh : (s5Peak s).resh = s.resh := rfl
@[simp] theorem s5Peak_ready : (s5Peak s).ready = s.ready := rfl
@[simp] theorem s5Peak_back : (s5Peak s).back = s.back := rfl
@[simp] theorem s5Peak_fatal : (s5Peak s).fatal = s.fatal := rfl
@[simp] theorem s5Peak_fcode : (s5Peak s).fcode = s.fcode := rfl
@[simp] theorem s5Peak_samperr : (s5Peak s).samperr = s.samperr := rfl
@[simp] theorem s5Peak_maprange : (s5Peak s).maprange = s.maprange := rfl
@[simp] theorem s5Peak_rkind : (s5Peak s).rkind = s.rkind := rfl
@[simp] theorem s5Peak_toneOn : (s5Peak s).toneOn = s.toneOn := rfl
@[simp] theorem s5Peak_toneHigh : (s5Peak s).toneHigh = s.toneHigh := rfl
@[simp] theorem s5Peak_beatArmed : (s5Peak s).beatArmed = s.beatArmed := rfl
@[simp] theorem s5Peak_toffArmed : (s5Peak s).toffArmed = s.toffArmed := rfl
@[simp] theorem s5Peak_errcnt : (s5Peak s).errcnt = s.errcnt := rfl
@[simp] theorem s5Peak_est : (s5Peak s).est = s.est := rfl
@[simp] theorem s5Peak_ravg : (s5Peak s).ravg = s.ravg := rfl
@[simp] theorem s5Peak_rdev : (s5Peak s).rdev = s.rdev := rfl
@[simp] theorem s5Peak_note : (s5Peak s).note = s.note := rfl
@[simp] theorem s5Peak_cents : (s5Peak s).cents = s.cents := rfl
@[simp] theorem s5Peak_beatsel : (s5Peak s).beatsel = s.beatsel := rfl
@[simp] theorem s5Peak_interval : (s5Peak s).interval = s.interval := rfl
@[simp] theorem s5Peak_cursor : (s5Peak s).cursor = s.cursor := rfl
@[simp] theorem s5Peak_outcnt : (s5Peak s).outcnt = s.outcnt := rfl
@[simp] theorem s5Peak_beatCnt : (s5Peak s).beatCnt = s.beatCnt := rfl
@[simp] theorem s5Peak_toffCnt : (s5Peak s).toffCnt = s.toffCnt := rfl
@[simp] theorem s5Peak_subbeat : (s5Peak s).subbeat = s.subbeat := rfl
@[simp] theorem s5Peak_mem : (s5Peak s).mem = s.mem := rfl
@[simp] theorem s5Peak_cfg : (s5Peak s).cfg = s.cfg := rfl
@[simp] theorem s5Peak_resets : (s5Peak s).resets = s.resets := rfl
@[simp] theorem s5Peak_events : (s5Peak s).events = s.events := rfl
@[simp] theorem s5Peak_reads : (s5Peak s).reads = s.reads := rfl
theorem s5Peak_peakbin : (s5Peak s).peakbin = BitVec.ofNat 32 (findPeak s.cfg fun k => sext (s.mem.word .fr k)).2 := rfl
theorem s5Peak_peakmag : (s5Peak s).peakmag = wrap32 (findPeak s.cfg fun k => sext (s.mem.word .fr k)).1 := rfl
@[simp] theorem s5Peak_dcmag : (s5Peak s).dcmag = s.mem.word .fr 0 := rfl

end

/-! ## passToPeak -/

section
variable (s : State)

@[simp] theorem passToPeak_opa : (passToPeak s).opa = s.opa := by
  simp only [passToPeak, s5Peak_opa, s4Fft_opa, s3Permute_opa, s2Window_opa, s1Ingest_opa]
@[simp] theorem passToPeak_opb : (passToPeak s).opb = s.opb := by
  simp only [passToPeak, s5Peak_opb, s4Fft_opb, s3Permute_opb, s2Window_opb, s1Ingest_opb]
@[simp] theorem passToPeak_resl : (passToPeak s).resl = s.resl := by
  simp only [passToPeak, s5Peak_resl, s4Fft_resl, s3Permute_resl, s2Window_resl, s1Ingest_resl]
@[simp] theorem passToPeak_resh : (passToPeak s).resh = s.resh := by
  simp only [passToPeak, s5Peak_resh, s4Fft_resh, s3Permute_resh, s2Window_resh, s1Ingest_resh]
@[simp] theorem passToPeak_back : (passToPeak s).back = s.back := by
  simp only [passToPeak, s5Peak_back, s4Fft_back, s3Permute_back, s2Window_back, s1Ingest_back]
@[simp] theorem passToPeak_fatal : (passToPeak s).fatal = s.fatal := by
  simp only [passToPeak, s5Peak_fatal, s4Fft_fatal, s3Permute_fatal, s2Window_fatal, s1Ingest_fatal]
@[simp] theorem passToPeak_fcode : (passToPeak s).fcode = s.fcode := by
  simp only [passToPeak, s5Peak_fcode, s4Fft_fcode, s3Permute_fcode, s2Window_fcode, s1Ingest_fcode]
@[simp] theorem passToPeak_maprange : (passToPeak s).maprange = s.maprange := by
  simp only [passToPeak, s5Peak_maprange, s4Fft_maprange, s3Permute_maprange, s2Window_maprange, s1Ingest_maprange]
@[simp] theorem passToPeak_rkind : (passToPeak s).rkind = s.rkind := by
  simp only [passToPeak, s5Peak_rkind, s4Fft_rkind, s3Permute_rkind, s2Window_rkind, s1Ingest_rkind]
@[simp] theorem passToPeak_toneOn : (passToPeak s).toneOn = s.toneOn := by
  simp only [passToPeak, s5Peak_toneOn, s4Fft_toneOn, s3Permute_toneOn, s2Window_toneOn, s1Ingest_toneOn]
@[simp] theorem passToPeak_toneHigh : (passToPeak s).toneHigh = s.toneHigh := by
  simp only [passToPeak, s5Peak_toneHigh, s4Fft_toneHigh, s3Permute_toneHigh, s2Window_toneHigh, s1Ingest_toneHigh]
@[simp] theorem passToPeak_beatArmed : (passToPeak s).beatArmed = s.beatArmed := by
  simp only [passToPeak, s5Peak_beatArmed, s4Fft_beatArmed, s3Permute_beatArmed, s2Window_beatArmed, s1Ingest_beatArmed]
@[simp] theorem passToPeak_toffArmed : (passToPeak s).toffArmed = s.toffArmed := by
  simp only [passToPeak, s5Peak_toffArmed, s4Fft_toffArmed, s3Permute_toffArmed, s2Window_toffArmed, s1Ingest_toffArmed]
@[simp] theorem passToPeak_est : (passToPeak s).est = s.est := by
  simp only [passToPeak, s5Peak_est, s4Fft_est, s3Permute_est, s2Window_est, s1Ingest_est]
@[simp] theorem passToPeak_ravg : (passToPeak s).ravg = s.ravg := by
  simp only [passToPeak, s5Peak_ravg, s4Fft_ravg, s3Permute_ravg, s2Window_ravg, s1Ingest_ravg]
@[simp] theorem passToPeak_rdev : (passToPeak s).rdev = s.rdev := by
  simp only [passToPeak, s5Peak_rdev, s4Fft_rdev, s3Permute_rdev, s2Window_rdev, s1Ingest_rdev]
@[simp] theorem passToPeak_note : (passToPeak s).note = s.note := by
  simp only [passToPeak, s5Peak_note, s4Fft_note, s3Permute_note, s2Window_note, s1Ingest_note]
@[simp] theorem passToPeak_cents : (passToPeak s).cents = s.cents := by
  simp only [passToPeak, s5Peak_cents, s4Fft_cents, s3Permute_cents, s2Window_cents, s1Ingest_cents]
@[simp] theorem passToPeak_beatsel : (passToPeak s).beatsel = s.beatsel := by
  simp only [passToPeak, s5Peak_beatsel, s4Fft_beatsel, s3Permute_beatsel, s2Window_beatsel, s1Ingest_beatsel]
@[simp] theorem passToPeak_interval : (passToPeak s).interval = s.interval := by
  simp only [passToPeak, s5Peak_interval, s4Fft_interval, s3Permute_interval, s2Window_interval, s1Ingest_interval]
@[simp] theorem passToPeak_cursor : (passToPeak s).cursor = s.cursor := by
  simp only [passToPeak, s5Peak_cursor, s4Fft_cursor, s3Permute_cursor, s2Window_cursor, s1Ingest_cursor]
@[simp] theorem passToPeak_outcnt : (passToPeak s).outcnt = s.outcnt := by
  simp only [passToPeak, s5Peak_outcnt, s4Fft_outcnt, s3Permute_outcnt, s2Window_outcnt, s1Ingest_outcnt]
@[simp] theorem passToPeak_beatCnt : (passToPeak s).beatCnt = s.beatCnt := by
  simp only [passToPeak, s5Peak_beatCnt, s4Fft_beatCnt, s3Permute_beatCnt, s2Window_beatCnt, s1Ingest_beatCnt]
@[simp] theorem passToPeak_toffCnt : (passToPeak s).toffCnt = s.toffCnt := by
  simp only [passToPeak, s5Peak_toffCnt, s4Fft_toffCnt, s3Permute_toffCnt, s2Window_toffCnt, s1Ingest_toffCnt]
@[simp] theorem passToPeak_subbeat : (passToPeak s).subbeat = s.subbeat := by
  simp only [passToPeak, s5Peak_subbeat, s4Fft_subbeat, s3Permute_subbeat, s2Window_subbeat, s1Ingest_subbeat]
@[simp] theorem passToPeak_cfg : (passToPeak s).cfg = s.cfg := by
  simp only [passToPeak, s5Peak_cfg, s4Fft_cfg, s3Permute_cfg, s2Window_cfg, s1Ingest_cfg]
@[simp] theorem passToPeak_resets : (passToPeak s).resets = s.resets := by
  simp only [passToPeak, s5Peak_resets, s4Fft_resets, s3Permute_resets, s2Window_resets, s1Ingest_resets]
@[simp] theorem passToPeak_events : (passToPeak s).events = s.events := by
  simp only [passToPeak, s5Peak_events, s4Fft_events, s3Permute_events, s2Window_events, s1Ingest_events]
@[simp] theorem passToPeak_reads : (passToPeak s).reads = s.reads := by
  simp only [passToPeak, s5Peak_reads, s4Fft_reads, s3Permute_reads, s2Window_reads, s1Ingest_reads]
@[simp] theorem passToPeak_ready : (passToPeak s).ready = false := by
  simp only [passToPeak, s5Peak_ready, s4Fft_ready, s3Permute_ready, s2Window_ready, s1Ingest_ready]
@[simp] theorem passToPeak_errcnt : (passToPeak s).errcnt = (s1Ingest s).errcnt := by
  simp only [passToPeak, s5Peak_errcnt, s4Fft_errcnt, s3Permute_errcnt, s2Window_errcnt]
@[simp] theorem passToPeak_samperr : (passToPeak s).samperr = (s1Ingest s).samperr := by
  simp only [passToPeak, s5Peak_samperr, s4Fft_samperr, s3Permute_samperr, s2Window_samperr]
theorem passToPeak_mem : (passToPeak s).mem = (s4Fft (s3Permute (s2Window (s1Ingest s)))).mem := rfl

end

end Sys2Proof.Machine
end

