-- ==== Sys2Proof/Machine/Script.lean ====
section
/-!
DEFINITION. The script notation: event lines, pseudo-instructions, literals and selector names (30_encoding.md R89 to
R92, 44_beat_scheduler.md R190).
-/
namespace Sys2Proof.Machine

/-- A beat selector by name (44_beat_scheduler.md R190). -/
inductive Selector where
  | none
  | count (n : Fin 10)
  | eighth
  | triplet
  | splitTriplet
  | sixteenth
  | splitSixteenth
deriving DecidableEq, Repr

/-- The number a selector name stands for (R190, R92). -/
def selectorNumber : Selector → Nat
  | .none => 0
  | .count n => n + 1
  | .eighth => 11
  | .triplet => 12
  | .splitTriplet => 13
  | .sixteenth => 14
  | .splitSixteenth => 15

/-- One line of a script (R89) or one pseudo-instruction (R90). -/
inductive ScriptLine where
  | wr (reg : RegName) (v : Word)
  | rd (reg : RegName)
  | cmd (i : Instr)
  | cmdw (v : Word)
  | acq (k : Nat) (w : Sample)
  | acqFill (ws : List Sample)
  | acqDone
  | tick (n : Nat)
  | reset
  | fxmul (a b : Word)
  | fxdiv (a b : Word)
  | i2fx (n : Word)
  | fx2f (a : Word)
  | estimate
  | mapfreq (f : Word)
  | setref (hz : Word)
  | setbeat (bpm : Word) (sel : Word)
deriving DecidableEq, Repr

/-- `WR reg, value`. -/
def evWrite (reg : RegName) (v : Word) : Event := .hostWrite (regNumber reg) v

/-- `RD reg`. -/
def evRead (reg : RegName) : Event := .hostRead (regNumber reg)

/-- `CMD mnemonic`. -/
def evCommand (i : Instr) : Event := .hostWrite 0 (encode i)

/-- The events of a line, in order (R89, R90). -/
def lineEvents : ScriptLine → List Event
  | .wr reg v => [evWrite reg v]
  | .rd reg => [evRead reg]
  | .cmd i => [evCommand i]
  | .cmdw v => [.hostWrite 0 v]
  | .acq k w => [.acqWrite k w]
  | .acqFill ws => ws.mapIdx fun k w => .acqWrite k w
  | .acqDone => [.acqDone]
  | .tick n => List.replicate n .tick
  | .reset => [.reset]
  | .fxmul a b => [evWrite .opa a, evWrite .opb b, evCommand .fxmul, evRead .resl]
  | .fxdiv a b => [evWrite .opa a, evWrite .opb b, evCommand .fxdiv, evRead .resl]
  | .i2fx n => [evWrite .opa n, evCommand .i2fx, evRead .resl]
  | .fx2f a => [evWrite .opa a, evCommand .fx2f, evRead .resh, evRead .resl]
  | .estimate => [evCommand .estimate, evRead .resl, evRead .status]
  | .mapfreq f => [evWrite .opa f, evCommand .mapfreq, evRead .status, evRead .note, evRead .cents]
  | .setref hz => [evWrite .opa hz, evCommand .setref]
  | .setbeat bpm sel => [evWrite .opa bpm, evWrite .opb sel, evCommand .setbeat, evRead .interval]

/-- The events of a script. -/
def scriptEvents (lines : List ScriptLine) : List Event := lines.flatMap lineEvents

/-- A decimal integer literal, its two's-complement pattern (R92). -/
def intLiteral (n : Int) : Word := wrap32 n

/-- `fx(r)`, for a number `r` exactly representable with 15 fraction bits; no other has a pattern (R92). -/
def fxLiteral (r : Rat) : Option Word :=
  if (r * 32768).den = 1 then some (wrap32 (r * 32768).num) else none

end Sys2Proof.Machine
end

