-- ==== Sys2Proof/WellFormed.lean ====
section
/-!
DEFINITION. Well-formedness: of a command (30_encoding.md R84: no operand field, so nothing to check), and of a
configuration (the constraints of 00_scope.md R8, and the constraints R41 and R47 put on the tables SINE and
PATTERN). A configuration that breaks one is outside the spec (70_reset_and_hazards.md R256).
-/
namespace Sys2Proof

open Sys2Proof.Machine

/-- Every command is well formed: it has no operand that could be out of range (R84). -/
def Instr.wf : Instr → Bool
  | .fxmul => true
  | .fxdiv => true
  | .i2fx => true
  | .fx2f => true
  | .estimate => true
  | .mapfreq => true
  | .setref => true
  | .setbeat => true

/-- The bounds R8 puts on the numeric parameters. -/
abbrev Config.sizesOk (c : Config) : Prop :=
  (2 ≤ c.log2n ∧ c.log2n ≤ 15) ∧ (1 ≤ c.sampleRateHz ∧ c.sampleRateHz < 131072) ∧
  (1 ≤ c.adcBits ∧ c.adcBits ≤ 15) ∧ (1 ≤ c.noiseFloor ∧ c.noiseFloor ≤ 2 ^ 31 - 1) ∧
  1 ≤ c.rollingItems ∧ (1 ≤ c.outlierThresh ∧ c.outlierThresh ≤ c.rollingItems) ∧
  (5 ≤ c.numOctaves ∧ c.numOctaves ≤ 10) ∧ (1 ≤ c.toneMs ∧ c.toneMs ≤ 49)

/-- The properties of SINE that R41 says a model may check, its length, and its amplitude 32768. -/
abbrev Config.sineOk (c : Config) : Prop :=
  c.sine.length = bufLen c ∧ (∀ x ∈ c.sine, -32768 ≤ x ∧ x ≤ 32768) ∧
  sineAt c 0 = 0 ∧ sineAt c (bufLen c / 4) = 32768 ∧ sineAt c (bufLen c / 2) = 0 ∧
  sineAt c (3 * bufLen c / 4) = -32768 ∧
  (∀ k < bufLen c / 2, sineAt c (bufLen c / 2 + k) = -sineAt c k) ∧
  (∀ k < bufLen c / 2 + 1, sineAt c (bufLen c / 2 - k) = sineAt c k)

/-- The constraints of R47 on PATTERN: sixteen rows, a non-empty one for each selector 1..15, the silent second
sub-beat of SPLIT_TRIPLET, and as many sub-beats as the divisor for the selectors 11 to 15. DESIGN CHOICE (log entry
12): R47 puts no upper bound on the rows of the selectors 1 to 10 and neither does this check, so with a replaced PATTERN
SUBBEAT can pass 8, the end of the range R57 gives it. -/
abbrev Config.patternOk (c : Config) : Prop :=
  c.pattern.length = 16 ∧ (∀ sel < 16, sel ≠ 0 → 0 < patternLen c sel) ∧
  (patternRow c 13)[1]? = some .silent ∧ patternLen c 11 = 2 ∧ patternLen c 12 = 3 ∧
  patternLen c 13 = 3 ∧ patternLen c 14 = 4 ∧ patternLen c 15 = 4

/-- The configuration meets the constraints of R8. -/
abbrev Config.wf (c : Config) : Prop := c.sizesOk ∧ c.sineOk ∧ c.patternOk

/-- R41's formula itself, for any LOG2N: each word of SINE is the integer nearest to `sin(2πk/N) × 32768`. Not
decidable by computation, so not part of `Config.wf` (log entry 8). -/
def Config.SineIsFormula (c : Config) : Prop :=
  ∀ k < bufLen c, |((sineAt c k : Int) : ℝ) - Real.sin (2 * Real.pi * k / bufLen c) * 32768| ≤ 1 / 2

end Sys2Proof
end

