-- ==== Sys2Proof/Safety.lean ====
section
/-!
DEFINITION. The terms the claims use: the invariants that hold between steps (42_smoother.md R162,
44_beat_scheduler.md R206, 10_state.md R26, R30, 43_note_mapper.md R183), repeated use of one operation, and the real
value of a binary64 pattern (40_fixed_point.md R109).
-/
namespace Sys2Proof.Machine

/-- The smoother between steps (R162): the counts in range, RAVG the truncated mean of the filled slots of HIST (0 when
none is), RDEV its fixed fraction. -/
abbrev SmootherInv (s : State) : Prop :=
  s.outcnt < s.cfg.outlierThresh ∧ s.cursor < s.cfg.rollingItems ∧
  s.ravg = meanOfFilled (s.mem.words .hist s.cfg.rollingItems) ∧ s.rdev = fxmul s.ravg kDev

/-- The beat scheduler between steps (R206). -/
abbrev BeatInv (s : State) : Prop :=
  (s.beatArmed = true ↔ s.beatsel ≠ 0 ∧ s.fatal = false) ∧
  (s.beatsel ≠ 0 → 1 ≤ s.beatCnt ∧ s.beatCnt ≤ zext s.interval ∧ 50 ≤ zext s.interval ∧ zext s.interval ≤ 3000) ∧
  (s.beatsel = 0 → s.interval = 0 ∧ s.beatCnt = 0 ∧ s.subbeat = 0) ∧
  (s.beatsel ≠ 0 → s.subbeat < patternLen s.cfg s.beatsel.toNat) ∧
  s.toffArmed = s.toneOn ∧
  (s.toffArmed = true → 1 ≤ s.toffCnt ∧ s.toffCnt ≤ s.cfg.toneMs)

/-- The flags and diagnostics between steps (10_state.md R26, R30, R31, 60_exceptions.md R216, R226): a code is recorded
exactly when the unit has halted, 4 to 15 are no codes, RKIND is never 3, a halted unit has no tone sounding, SAMPERR
goes with ERRCNT, and the peak bin is 0 or a candidate. -/
abbrev StatusInv (s : State) : Prop :=
  (s.fatal = true ↔ s.fcode ≠ 0) ∧ s.fcode.toNat ≤ 3 ∧ s.rkind ≠ 3 ∧
  (s.fatal = true → s.toffArmed = false) ∧
  (s.samperr = true ↔ s.errcnt ≠ 0) ∧ s.errcnt.toNat ≤ bufLen s.cfg ∧ s.peakbin.toNat < bufLen s.cfg / 2

/-- What holds of the machine between any two steps. -/
structure Inv (s : State) : Prop where
  /-- The parameters meet R8's constraints. -/
  config : s.cfg.wf
  /-- Every memory is in its one canonical form, within its space. -/
  memory : s.mem.wf s.cfg
  smoother : SmootherInv s
  beat : BeatInv s
  status : StatusInv s

/-- The outputs of the note mapper between steps (10_state.md R33, R183): a semitone index of the table, and cents in
−50..+50. -/
abbrev NoteInv (s : State) : Prop :=
  zext s.note < lutLen s.cfg ∧ -50 ≤ sext s.cents ∧ sext s.cents ≤ 50

/-- While a tone sounds and the beat clock runs, the tone has less time left than the clock (44_beat_scheduler.md
R200). -/
abbrev ToneGap (s : State) : Prop := s.beatArmed = true → s.toffArmed = true → s.toffCnt < s.beatCnt

/-- `n` calls of the smoother with the same estimate. -/
def smoothTimes (f : Word) : Nat → State → Except Fault State
  | 0, s => .ok s
  | n + 1, s =>
    match smooth f s with
    | .error e => .error e
    | .ok t => smoothTimes f n t

/-- The event is a HostRead (00_scope.md R17). -/
def isHostRead : Event → Bool
  | .reset => false
  | .hostWrite _ _ => false
  | .hostRead _ => true
  | .acqWrite _ _ => false
  | .acqDone => false
  | .tick => false

/-- `n` Tick events. -/
def tickTimes : Nat → State → Host.Outcome State Fault Refusal
  | 0, s => .next s
  | n + 1, s =>
    match tickEvent s with
    | .next t => tickTimes n t
    | .fault e => .fault e
    | .refused r => .refused r

/-- The biased exponent of a binary64 pattern, bits 62:52. -/
def binary64Exponent (d : Pattern64) : Nat := (d.extractLsb' 52 11).toNat

/-- The fraction of a binary64 pattern, bits 51:0. -/
def binary64Fraction (d : Pattern64) : Nat := (d.extractLsb' 0 52).toNat

/-- The real value of a binary64 pattern whose exponent field is 1..2046, and 0 for the pattern of +0 (R109). -/
def binary64Value (d : Pattern64) : ℚ :=
  if d = 0 then 0
  else (if d.getLsbD 63 then -1 else 1) * (1 + (binary64Fraction d : ℚ) / 2 ^ 52) *
    (2 : ℚ) ^ ((binary64Exponent d : ℤ) - 1023)

end Sys2Proof.Machine
end

