-- ==== Sys2Proof/Certificates/Slice0/Obligations.lean ====
section
/-!
DEFINITION. The statements for the provers. Each docstring names the rule it formalises or, where the claim is a
consequence, the passage it rests on. `/` on `Int` with a positive divisor is the floor, `Int.tdiv` rounds toward zero.
An event of the spec happens in a step when it stands first in `events`, the model's own list (log entry 1).
-/

open Sys2Proof Sys2Proof.Machine

/-! ## Commands, decoding and the step -/

/-- A step whose next event writes a command word to CMD of a unit that is not halted is `exec` of the decoded command,
on the state with that event taken from the list (30_encoding.md R94; the list is the model's own, log entry 1). -/
def Obligations.StepRunsTheDecodedCommand : Prop :=
  ∀ (s : State) (v : Word) (i : Instr) (rest : List Event),
    s.events = .hostWrite 0 v :: rest → s.fatal = false → decode v = .ok i →
    step s = exec i { s with events := rest }

/-- R86: the eight command words written out, each decoding to its command. -/
def Obligations.CommandWordsDecodeAsTheOpcodeTable : Prop :=
  decode 0x00000010 = .ok .fxmul ∧ decode 0x00000011 = .ok .fxdiv ∧ decode 0x00000012 = .ok .i2fx ∧
  decode 0x00000013 = .ok .fx2f ∧ decode 0x00000020 = .ok .estimate ∧ decode 0x00000030 = .ok .mapfreq ∧
  decode 0x00000031 = .ok .setref ∧ decode 0x00000040 = .ok .setbeat

/-- Decode and encode agree on every word and every command: a word decodes to a command exactly when it is that
command's word (30_encoding.md sections 1 and 3). -/
def Obligations.DecodeAcceptsExactlyTheEncodedCommands : Prop :=
  ∀ (v : Word) (i : Instr), decode v = .ok i ↔ v = encode i

/-- R94 and R87: the step for a write to CMD. A halted unit ignores it, each of the eight words runs its command, and
every other word raises ILLCMD and changes nothing but the fault state. -/
def Obligations.CmdWriteRunsOneOfEightOrFaults : Prop :=
  ∀ (s : State) (v : Word) (rest : List Event), s.events = .hostWrite 0 v :: rest →
    let u := { s with events := rest }
    (s.fatal = true → step s = .next u) ∧
    (s.fatal = false →
      (v = 0x10 → step s = exec .fxmul u) ∧ (v = 0x11 → step s = exec .fxdiv u) ∧
      (v = 0x12 → step s = exec .i2fx u) ∧ (v = 0x13 → step s = exec .fx2f u) ∧
      (v = 0x20 → step s = exec .estimate u) ∧ (v = 0x30 → step s = exec .mapfreq u) ∧
      (v = 0x31 → step s = exec .setref u) ∧ (v = 0x40 → step s = exec .setbeat u) ∧
      (v ≠ 0x10 → v ≠ 0x11 → v ≠ 0x12 → v ≠ 0x13 → v ≠ 0x20 → v ≠ 0x30 → v ≠ 0x31 → v ≠ 0x40 →
        step s = .next { u with
          fcode := 3, fatal := true, beatArmed := false, toffArmed := false, toneOn := false }))

/-! ## The arithmetic kernel -/

/-- R100: FXMUL completes on every state and writes RESL only, with the floored product. -/
def Obligations.FxmulWritesTheFlooredProduct : Prop :=
  ∀ s : State, exec .fxmul s =
    .next { s with resl := BitVec.ofInt 32 (s.opa.toInt * s.opb.toInt / 2 ^ 15) }

/-- R101: the multiply function, its 64-bit product, its laws, its rounding and its wrap; the last clause is the exactness
of products of integers (40_fixed_point.md section 1). -/
def Obligations.FxmulRoundsDownByLessThanOneUlp : Prop :=
  (∀ a b : Word, fxmul a b = BitVec.ofInt 32 (a.toInt * b.toInt / 2 ^ 15) ∧ fxmul a b = fxmul b a ∧
    fxmul a fixOne = a ∧ fxmul a 0 = 0 ∧ -2 ^ 63 ≤ a.toInt * b.toInt ∧ a.toInt * b.toInt < 2 ^ 63) ∧
  (∀ a b : Word, -2 ^ 31 ≤ a.toInt * b.toInt / 2 ^ 15 → a.toInt * b.toInt / 2 ^ 15 < 2 ^ 31 →
    0 ≤ a.toInt * b.toInt - (fxmul a b).toInt * 2 ^ 15 ∧
    a.toInt * b.toInt - (fxmul a b).toInt * 2 ^ 15 < 2 ^ 15) ∧
  fxmul 0xFFFFFFFF 1 = 0xFFFFFFFF ∧ fxmul 1 1 = 0 ∧ fxmul 0x00800000 0x00800000 = 0x80000000 ∧
  (∀ a b : Int, -65536 ≤ a → a ≤ 65535 → -65536 ≤ b → b ≤ 65535 → -65536 ≤ a * b → a * b ≤ 65535 →
    fxmul (i2fx a) (i2fx b) = i2fx (a * b))

/-- R103: FXDIV writes RESL only, with the quotient rounded toward zero; with OPB = 0 it raises DIVZ before any write. -/
def Obligations.FxdivWritesTheTruncatedQuotient : Prop :=
  ∀ s : State,
    (s.opb ≠ 0 → exec .fxdiv s =
      .next { s with resl := BitVec.ofInt 32 ((s.opa.toInt * 2 ^ 15).tdiv s.opb.toInt) }) ∧
    (s.opb = 0 → exec .fxdiv s =
      .next { s with fcode := 1, fatal := true, beatArmed := false, toffArmed := false, toneOn := false })

/-- R104: the divide function and its laws. The spec asks the sign laws only where no wrap occurs; they hold of every
operand but 0x80000000. -/
def Obligations.FxdivTruncatesAndObeysItsLaws : Prop :=
  (∀ a b : Word, b ≠ 0 → fxdiv a b = some (BitVec.ofInt 32 ((a.toInt * 2 ^ 15).tdiv b.toInt)) ∧
    |(a.toInt * 2 ^ 15).tdiv b.toInt| ≤ 2 ^ 46) ∧
  (∀ a : Word, fxdiv a 0 = none ∧ fxdiv a fixOne = some a) ∧
  (∀ a : Word, a ≠ 0 → fxdiv a a = some fixOne ∧ fxdiv 0 a = some 0) ∧
  (∀ a b : Word, a ≠ 0x80000000 → b ≠ 0x80000000 → b ≠ 0 →
    fxdiv (-a) b = fxdiv a (-b) ∧ fxdiv (-a) b = (fxdiv a b).map (fun q => -q)) ∧
  fxdiv 0x00008000 0x00018000 = some 0x00002AAA ∧ fxdiv 0xFFFF8000 0x00018000 = some 0xFFFFD556 ∧
  fxdiv 0x00008000 0xFFFE8000 = some 0xFFFFD556 ∧ fxdiv 0xFFFF8000 0xFFFE8000 = some 0x00002AAA ∧
  fxdiv 0x00008000 1 = some 0x40000000 ∧ fxdiv 0x00010000 1 = some 0x80000000 ∧
  fxdiv 0x80000000 0xFFFFFFFF = some 0

/-- R106 and R107: I2FX writes RESL only, with 2^15 times the integer; lossless exactly on −65536..65535. -/
def Obligations.I2fxScalesAndIsLosslessInRange : Prop :=
  (∀ s : State, exec .i2fx s = .next { s with resl := BitVec.ofInt 32 (s.opa.toInt * 2 ^ 15) }) ∧
  (∀ n : Word, i2fx n.toInt = BitVec.ofInt 32 (n.toInt * 2 ^ 15) ∧
    ((i2fx n.toInt).toInt = n.toInt * 2 ^ 15 ↔ -65536 ≤ n.toInt ∧ n.toInt ≤ 65535)) ∧
  i2fx 65536 = 0x80000000 ∧ i2fx (-65537) = 0x7FFF8000 ∧ i2fx 131073 = 0x00008000 ∧ i2fx (-2147483648) = 0

/-- R108: FX2F writes RESH and RESL only, and the pattern they hold is a binary64 number (never subnormal, infinite, NaN
or −0) whose real value is exactly that of OPA. -/
def Obligations.Fx2fGivesTheExactBinary64 : Prop :=
  ∀ s : State, ∃ d : Pattern64,
    exec .fx2f s = .next { s with resh := d.extractLsb' 32 32, resl := d.extractLsb' 0 32 } ∧
    binary64Value d = (s.opa.toInt : ℚ) / 2 ^ 15 ∧
    (s.opa = 0 → d = 0) ∧
    (s.opa ≠ 0 → 1008 ≤ binary64Exponent d ∧ binary64Exponent d ≤ 1039 ∧
      d.getLsbD 63 = decide (s.opa.toInt < 0))

/-! ## The estimator -/

/-- R122: with no buffer ESTIMATE writes RESL = 0 and RKIND = 0 and nothing else. -/
def Obligations.EstimateWithoutBufferReturnsNoData : Prop :=
  ∀ s : State, s.ready = false → exec .estimate s = .next { s with resl := 0, rkind := 0 }

/-- R123: stage S1 fills FR with the readings, clears FI, scrubs the back bank in place, counts the flags, and leaves
everything else, the front bank included, as it was. -/
def Obligations.IngestCopiesAndScrubsTheBackBank : Prop :=
  ∀ s : State,
    let t := s1Ingest s
    (∀ k < bufLen s.cfg,
      t.mem.word .fr k = BitVec.ofNat 32 ((bankWord s s.back k).toNat % 2 ^ 15 * 2 ^ 15) ∧
      t.mem.word .fi k = 0 ∧ bankWord t s.back k = bankWord s s.back k &&& 0x7FFF) ∧
    (∀ k, bankWord t (!s.back) k = bankWord s (!s.back) k) ∧
    (∀ sp, sp ≠ .fr → sp ≠ .fi → ∀ k, t.mem.word sp k = s.mem.word sp k) ∧
    t.errcnt = BitVec.ofNat 32
      ((List.range (bufLen s.cfg)).countP fun k => (bankWord s s.back k).getLsbD 15) ∧
    (t.samperr = true ↔ ∃ k < bufLen s.cfg, (bankWord s s.back k).getLsbD 15 = true) ∧
    t = { s with mem := t.mem, errcnt := t.errcnt, samperr := t.samperr, ready := false }

/-- R125: stage S2 multiplies every word of FR by the Hann coefficient read from SINE a quarter period ahead and leaves
everything else; and, in a configuration R8 allows, the window is 0 at its ends, 1.0 in the middle, within 0..1.0 and
symmetric (41_estimate.md section 3). -/
def Obligations.WindowIsTheSymmetricHannTaper : Prop :=
  (∀ s : State,
    let t := s2Window s
    (∀ k < bufLen s.cfg, t.mem.word .fr k = fxmul (s.mem.word .fr k)
      (BitVec.ofInt 32 ((32768 - sineAt s.cfg ((k + bufLen s.cfg / 4) % bufLen s.cfg)) / 2))) ∧
    (∀ sp, sp ≠ .fr → ∀ k, t.mem.word sp k = s.mem.word sp k) ∧ (∀ b, t.mem.bank b = s.mem.bank b) ∧
    t = { s with mem := t.mem }) ∧
  (∀ c : Config, c.wf →
    windowCoeff c 0 = 0 ∧ windowCoeff c (bufLen c / 2) = 0x00008000 ∧
    (∀ k < bufLen c, 0 ≤ (windowCoeff c k).toInt ∧ (windowCoeff c k).toInt ≤ 32768) ∧
    (∀ k, 1 ≤ k → k < bufLen c → windowCoeff c (bufLen c - k) = windowCoeff c k))

/-- R127: stage S3 replaces FR and FI, all words at once, by their bit-reversed reordering; `rev` keeps the index range
and is its own inverse. -/
def Obligations.PermutationReordersByReversedIndex : Prop :=
  (∀ s : State,
    let t := s3Permute s
    (∀ m < bufLen s.cfg, t.mem.word .fr m = s.mem.word .fr (revBits s.cfg.log2n m) ∧
      t.mem.word .fi m = s.mem.word .fi (revBits s.cfg.log2n m)) ∧
    (∀ sp, sp ≠ .fr → sp ≠ .fi → ∀ k, t.mem.word sp k = s.mem.word sp k) ∧
    (∀ b, t.mem.bank b = s.mem.bank b) ∧ t = { s with mem := t.mem }) ∧
  (∀ n m : Nat, m < 2 ^ n → revBits n m < 2 ^ n ∧ revBits n (revBits n m) = m ∧
    revBits n m = ((List.range n).map fun i => (m.testBit i).toNat * 2 ^ (n - 1 - i)).sum)

/-- R128: the butterfly part of stage S4 runs LOG2N stages in order, and in each stage every pair `(a, a + L)` becomes
the butterfly of the words the stage started with, whatever order the loops visit the pairs in. -/
def Obligations.FftStagesAreButterfliesOfWholePairs : Prop :=
  ∀ s : State, ∃ y : Nat → ReIm,
    let n := bufLen s.cfg
    let t := s4Butterflies s
    y 0 = (s.mem.words .fr n, s.mem.words .fi n) ∧
    (∀ st < s.cfg.log2n, ∀ a < n, a % (2 * 2 ^ st) < 2 ^ st →
      let b := a + 2 ^ st
      let j := a % (2 * 2 ^ st) * 2 ^ (s.cfg.log2n - 1 - st)
      let wr : Word := BitVec.ofInt 32 (sineAt s.cfg (j + n / 4) / 2)
      let wi : Word := BitVec.ofInt 32 (-sineAt s.cfg j / 2)
      let re (k : Nat) : Word := (y st).1.getD k 0
      let im (k : Nat) : Word := (y st).2.getD k 0
      let tr : Word := BitVec.ofInt 32 ((fxmul wr (re b)).toInt - (fxmul wi (im b)).toInt)
      let ti : Word := BitVec.ofInt 32 ((fxmul wr (im b)).toInt + (fxmul wi (re b)).toInt)
      b < n ∧
      (y (st + 1)).1.getD b 0 = BitVec.ofInt 32 ((re a).toInt / 2 - tr.toInt) ∧
      (y (st + 1)).2.getD b 0 = BitVec.ofInt 32 ((im a).toInt / 2 - ti.toInt) ∧
      (y (st + 1)).1.getD a 0 = BitVec.ofInt 32 ((re a).toInt / 2 + tr.toInt) ∧
      (y (st + 1)).2.getD a 0 = BitVec.ofInt 32 ((im a).toInt / 2 + ti.toInt)) ∧
    (∀ k < n, t.mem.word .fr k = (y s.cfg.log2n).1.getD k 0 ∧ t.mem.word .fi k = (y s.cfg.log2n).2.getD k 0) ∧
    (∀ sp, sp ≠ .fr → sp ≠ .fi → ∀ k, t.mem.word sp k = s.mem.word sp k) ∧
    (∀ b, t.mem.bank b = s.mem.bank b) ∧ t = { s with mem := t.mem }

/-- The magnitude step (41_estimate.md section 5): every word of FR becomes the configured MAG of the words of FR and FI
there, with the default MAG the exact integer root of the sum of the squares, FI stays; with any MAG the result does not
depend on the signs, and it is not negative while the sum of the squares is below 2^62 (log entry 9: the spec's own remark
on the wrap is narrower than its formula), with a replaced MAG never. -/
def Obligations.MagnitudeIsTheIntegerRoot : Prop :=
  (∀ s : State,
    let t := s4Magnitude s
    (∀ k < bufLen s.cfg,
      let re := (s.mem.word .fr k).toInt
      let im := (s.mem.word .fi k).toInt
      let m : Int := (t.mem.word .fr k).toNat
      t.mem.word .fr k = magnitude s.cfg (s.mem.word .fr k) (s.mem.word .fi k) ∧
      (s.cfg.mag = .exactRoot → m * m ≤ re * re + im * im ∧ re * re + im * im < (m + 1) * (m + 1))) ∧
    (∀ sp, sp ≠ .fr → ∀ k, t.mem.word sp k = s.mem.word sp k) ∧ (∀ b, t.mem.bank b = s.mem.bank b) ∧
    t = { s with mem := t.mem }) ∧
  (∀ (c : Config) (re im : Word),
    magnitude c (-re) im = magnitude c re im ∧ magnitude c re (-im) = magnitude c re im ∧
    (re.toInt * re.toInt + im.toInt * im.toInt < 2 ^ 62 → 0 ≤ (magnitude c re im).toInt) ∧
    (c.mag ≠ .exactRoot → 0 ≤ (magnitude c re im).toInt))

/-- R132: stage S5 finds the lowest bin among `1 .. N/2 − 1` that holds the largest strict local maximum above 0, or none;
it writes PEAKBIN, PEAKMAG and DCMAG only. -/
def Obligations.PeakIsTheLargestStrictLocalMaximum : Prop :=
  ∀ s : State, s.cfg.log2n ≤ 15 →
    let t := s5Peak s
    let v (k : Nat) : Int := (s.mem.word .fr k).toInt
    let candidate (k : Nat) : Prop :=
      1 ≤ k ∧ k ≤ bufLen s.cfg / 2 - 1 ∧ v (k - 1) < v k ∧ v (k + 1) < v k ∧ 0 < v k
    ((∀ k, ¬candidate k) → t.peakbin = 0 ∧ t.peakmag = 0) ∧
    ((∃ k, candidate k) → candidate t.peakbin.toNat ∧ t.peakmag = s.mem.word .fr t.peakbin.toNat ∧
      ∀ k, candidate k → v k ≤ v t.peakbin.toNat ∧ (v k = v t.peakbin.toNat → t.peakbin.toNat ≤ k)) ∧
    t = { s with peakbin := t.peakbin, peakmag := t.peakmag, dcmag := s.mem.word .fr 0 }

/-- R134: a peak strictly below the noise floor ends the pass with EST = RESL = LOWSIG and RKIND = 1, the smoother
untouched; a peak equal to it goes on to stages S7 and S8. -/
def Obligations.LowSignalPassLeavesTheSmoother : Prop :=
  (∀ s : State, s.ready = true → (passToPeak s).peakmag.toInt < s.cfg.noiseFloor →
    ∃ t, exec .estimate s = .next t ∧ t.est = 0xFFFF8000 ∧ t.resl = 0xFFFF8000 ∧ t.rkind = 1 ∧
      t.ready = false ∧ (∀ k, t.mem.word .hist k = s.mem.word .hist k) ∧
      (∀ k, t.mem.word .side k = s.mem.word .side k) ∧ (∀ k, t.mem.word .lut k = s.mem.word .lut k) ∧
      (∀ k, bankWord t (!s.back) k = bankWord s (!s.back) k) ∧
      t = { s with
        resl := t.resl, rkind := t.rkind, ready := t.ready, samperr := t.samperr, errcnt := t.errcnt,
        dcmag := t.dcmag, peakbin := t.peakbin, peakmag := t.peakmag, est := t.est, mem := t.mem }) ∧
  (∀ (s : State) (f : Word), Inv s → s.ready = true → (passToPeak s).peakmag.toInt = s.cfg.noiseFloor →
    s7Interp (passToPeak s) = some f → ∃ t, exec .estimate s = .next t ∧ t.rkind = 2 ∧ t.est = f)

/-- R120: without a buffer ESTIMATE returns NODATA; with one it completes, in every state the invariant allows, by one
of its three exits. The state of the pass up to the peak is `p`; its stages are the subject of the statements about S1
to S5. -/
def Obligations.EstimatePassTakesOneOfThreeExits : Prop :=
  (∀ s : State, s.ready = false → exec .estimate s = .next { s with resl := 0, rkind := 0 }) ∧
  ∀ s : State, Inv s → s.ready = true → ∃ t, exec .estimate s = .next t ∧
    let p := s5Peak (s4Magnitude (s4Butterflies (s3Permute (s2Window (s1Ingest s)))))
    t.ready = false ∧ t.errcnt = (s1Ingest s).errcnt ∧ t.samperr = (s1Ingest s).samperr ∧
    t.dcmag = p.dcmag ∧ t.peakbin = p.peakbin ∧ t.peakmag = p.peakmag ∧
    (∀ k, t.mem.word .fr k = p.mem.word .fr k ∧ t.mem.word .fi k = p.mem.word .fi k ∧
      t.mem.word .lut k = s.mem.word .lut k) ∧
    (∀ b k, bankWord t b k = bankWord (s1Ingest s) b k) ∧
    ((p.peakmag.toInt < s.cfg.noiseFloor ∧
        t = { p with est := 0xFFFF8000, resl := 0xFFFF8000, rkind := 1 }) ∨
      (s.cfg.noiseFloor ≤ p.peakmag.toInt ∧ s7Interp p = none ∧
        t = { p with fcode := 1, fatal := true, beatArmed := false, toffArmed := false, toneOn := false }) ∨
      (s.cfg.noiseFloor ≤ p.peakmag.toInt ∧ ∃ f u, s7Interp p = some f ∧
        smooth f { p with est := f } = .ok u ∧ t = { u with resl := u.ravg, rkind := 2 })) ∧
    t = { s with
      resl := t.resl, rkind := t.rkind, ready := t.ready, samperr := t.samperr, errcnt := t.errcnt,
      dcmag := t.dcmag, peakbin := t.peakbin, peakmag := t.peakmag, est := t.est, mem := t.mem,
      ravg := t.ravg, rdev := t.rdev, cursor := t.cursor, outcnt := t.outcnt,
      fcode := t.fcode, fatal := t.fatal, beatArmed := t.beatArmed, toffArmed := t.toffArmed, toneOn := t.toneOn }

/-- R136: stage S7 reads the bin PEAKBIN and its two neighbours from FR; a denominator that wraps to 0 gives no
estimate (and so DIVZ), any other gives the wrapped position times the width of a bin. -/
def Obligations.InterpolationReadsThePeakAndItsNeighbours : Prop :=
  ∀ s : State,
    let b := s.peakbin.toNat
    let left := (s.mem.word .fr (b - 1)).toInt
    let peak := (s.mem.word .fr b).toInt
    let right := (s.mem.word .fr (b + 1)).toInt
    let num : Word := BitVec.ofInt 32 (left - right)
    let den : Word := BitVec.ofInt 32 (2 * (left + right - 2 * peak))
    let delta : Word := BitVec.ofInt 32 ((num.toInt * 2 ^ 15).tdiv den.toInt)
    let pos : Word := BitVec.ofInt 32 ((BitVec.ofInt 32 (b * 2 ^ 15)).toInt + delta.toInt)
    let width : Word := BitVec.ofNat 32 (s.cfg.sampleRateHz * 2 ^ (15 - s.cfg.log2n))
    (den = 0 → s7Interp s = none) ∧
    (den ≠ 0 → s7Interp s = some (BitVec.ofInt 32 (pos.toInt * width.toInt / 2 ^ 15)))

/-- Stage S7 on magnitudes in the range where its denominator fits 32 bits (41_estimate.md section 8; log entry 9): no
fault, the offset is less than half a bin either way and toward the larger neighbour, and the estimate lies below half
the sample rate. The three magnitudes are those of the bin PEAKBIN and its two neighbours in FR. -/
def Obligations.InterpolationStaysWithinHalfABin : Prop :=
  (∀ s : State, s7Interp s = interpolate s.cfg s.peakbin.toNat (s.mem.word .fr (s.peakbin.toNat - 1)).toInt
    (s.mem.word .fr s.peakbin.toNat).toInt (s.mem.word .fr (s.peakbin.toNat + 1)).toInt) ∧
  ∀ (c : Config) (bin : Nat) (left peak right : Int), c.wf → 1 ≤ bin → bin ≤ bufLen c / 2 - 1 →
    0 ≤ left → left < peak → 0 ≤ right → right < peak → peak ≤ 2 ^ 29 →
    ∃ est : Word,
      let delta := ((left - right) * 2 ^ 15).tdiv (2 * (left + right - 2 * peak))
      interpolate c bin left peak right = some est ∧
      -16384 < delta ∧ delta < 16384 ∧ (left < right → 0 ≤ delta) ∧ (right < left → delta ≤ 0) ∧
      est.toInt = ((bin : Int) * 2 ^ 15 + delta) * (c.sampleRateHz * 2 ^ (15 - c.log2n) : Nat) / 2 ^ 15 ∧
      0 ≤ est.toInt ∧ est.toInt < (c.sampleRateHz : Int) * 2 ^ 14

/-! ## The smoother -/

/-- R153: an outlier that does not complete the threshold is stashed at SIDE[OUTCNT] and counted; HIST, CURSOR, RAVG (the
value returned) and RDEV stay. -/
def Obligations.OutlierBelowThresholdIsOnlyStashed : Prop :=
  ∀ (f : Word) (s : State),
    (f.toInt < (BitVec.ofInt 32 (s.ravg.toInt - s.rdev.toInt)).toInt ∨
      (BitVec.ofInt 32 (s.ravg.toInt + s.rdev.toInt)).toInt < f.toInt) →
    s.outcnt + 1 < s.cfg.outlierThresh →
    ∃ t, smooth f s = .ok t ∧ t = { s with mem := t.mem, outcnt := s.outcnt + 1 } ∧
      t.mem.word .side s.outcnt = f ∧
      (∀ sp k, (sp ≠ .side ∨ k ≠ s.outcnt) → t.mem.word sp k = s.mem.word sp k) ∧
      (∀ b, t.mem.bank b = s.mem.bank b)

/-- R154: the outlier that completes the threshold makes the side buffer the whole history, empties every other slot, sets
the cursor to the threshold position, clears the count, and returns the recomputed average. SIDE keeps its words. -/
def Obligations.ThresholdOutlierAdoptsTheSideBuffer : Prop :=
  ∀ (f : Word) (s : State),
    (f.toInt < (BitVec.ofInt 32 (s.ravg.toInt - s.rdev.toInt)).toInt ∨
      (BitVec.ofInt 32 (s.ravg.toInt + s.rdev.toInt)).toInt < f.toInt) →
    s.outcnt + 1 = s.cfg.outlierThresh → s.cfg.outlierThresh ≤ s.cfg.rollingItems →
    ∃ t, smooth f s = .ok t ∧
      (∀ i < s.outcnt, t.mem.word .hist i = s.mem.word .side i) ∧ t.mem.word .hist s.outcnt = f ∧
      (∀ i, s.cfg.outlierThresh ≤ i → t.mem.word .hist i = 0) ∧
      t.mem.word .side s.outcnt = f ∧
      (∀ sp k, sp ≠ .hist → (sp ≠ .side ∨ k ≠ s.outcnt) → t.mem.word sp k = s.mem.word sp k) ∧
      (∀ b, t.mem.bank b = s.mem.bank b) ∧
      t = { s with
        mem := t.mem, outcnt := 0, cursor := s.cfg.outlierThresh % s.cfg.rollingItems,
        ravg := meanOfFilled (t.mem.words .hist s.cfg.rollingItems), rdev := fxmul t.ravg 0x00002666 }

/-- R155: an estimate in the closed band clears the outlier count, is written at the cursor, which wraps, and the average
and deviance are recomputed. -/
def Obligations.InBoundsEstimateJoinsTheHistory : Prop :=
  ∀ (f : Word) (s : State),
    (BitVec.ofInt 32 (s.ravg.toInt - s.rdev.toInt)).toInt ≤ f.toInt →
    f.toInt ≤ (BitVec.ofInt 32 (s.ravg.toInt + s.rdev.toInt)).toInt →
    s.cursor < s.cfg.rollingItems →
    ∃ t, smooth f s = .ok t ∧ t.mem.word .hist s.cursor = f ∧
      (∀ sp k, (sp ≠ .hist ∨ k ≠ s.cursor) → t.mem.word sp k = s.mem.word sp k) ∧
      (∀ b, t.mem.bank b = s.mem.bank b) ∧
      t = { s with
        mem := t.mem, outcnt := 0, cursor := (s.cursor + 1) % s.cfg.rollingItems,
        ravg := meanOfFilled (t.mem.words .hist s.cfg.rollingItems), rdev := fxmul t.ravg 0x00002666 }

/-- R158: RAVG is the truncated mean of the filled slots, with no wrap, and so between any two bounds of theirs; RDEV is
0.3 of it, at most and nearly. -/
def Obligations.AverageIsTheTruncatedMeanOfFilledSlots : Prop :=
  ∀ s : State,
    let t := recompute s
    let filled := ((List.range s.cfg.rollingItems).map (s.mem.word .hist)).filter (fun w => decide (w ≠ 0))
    (filled = [] → t.ravg = 0) ∧
    (filled ≠ [] → t.ravg.toInt = (filled.map BitVec.toInt).sum.tdiv filled.length) ∧
    (∀ lo hi : Int, filled ≠ [] → (∀ w ∈ filled, lo ≤ w.toInt ∧ w.toInt ≤ hi) →
      lo ≤ t.ravg.toInt ∧ t.ravg.toInt ≤ hi) ∧
    (s.cfg.rollingItems < 2 ^ 32 → |(filled.map BitVec.toInt).sum| < 2 ^ 63) ∧
    t.rdev = fxmul t.ravg 0x00002666 ∧
    (0 ≤ t.ravg.toInt → 10 * t.rdev.toInt ≤ 3 * t.ravg.toInt ∧
      24000 * t.ravg.toInt - 80000 * t.rdev.toInt < t.ravg.toInt + 80000) ∧
    t = { s with ravg := t.ravg, rdev := t.rdev }

/-- The warm-up and the idempotence of the rolling filter (42_smoother.md section 3), for every configuration and an
estimate above 0 and up to 50412 Hz (above it the band wraps, R162; 0 marks an empty slot): from the empty filter,
fewer than THRESH equal estimates leave the average 0, the THRESH-th makes it the estimate, and it stays so for as
long as the estimate repeats. -/
def Obligations.RepeatedEstimateBecomesTheAverage : Prop :=
  ∀ (f : Word) (s : State), s.cfg.sizesOk → s.outcnt = 0 → s.cursor < s.cfg.rollingItems →
    s.ravg = 0 → s.rdev = 0 → 0 < f.toInt → f.toInt ≤ 50412 * 2 ^ 15 →
    ∀ n, ∃ t, smoothTimes f n s = .ok t ∧
      (n < s.cfg.outlierThresh → t.ravg = 0 ∧ t.rdev = 0 ∧ t.outcnt = n) ∧
      (s.cfg.outlierThresh ≤ n → t.ravg = f ∧ t.rdev = fxmul f 0x00002666 ∧ t.outcnt = 0)

/-! ## The reference-pitch table and the note mapper -/

/-- R175: SETREF completes on every state, writes every word of LUT and nothing else. -/
def Obligations.SetrefRebuildsTheWholeTable : Prop :=
  ∀ s : State, ∃ t, exec .setref s = .next t ∧ t = { s with mem := t.mem } ∧
    (∀ i < lutLen s.cfg, t.mem.word .lut i = lutEntry s.opa.toNat i) ∧
    (∀ sp, sp ≠ .lut → ∀ k, t.mem.word sp k = s.mem.word sp k) ∧ (∀ b, t.mem.bank b = s.mem.bank b)

/-- R176: the table entry of semitone `s` of octave `o` relative to the reference is the reference times SEMI[s], rounded
to nearest at 15 fraction bits; octaves of the reference are exact doublings, index 57 is the reference itself; and for
the reference 440 every entry is within half a unit of the real frequency. -/
def Obligations.LutEntryRoundsTheScaledReference : Prop :=
  (∀ ref i : Nat, ∀ o : Int, ∀ s : Nat, -5 ≤ o → o ≤ 5 → s < 12 → (i : Int) = 57 + 12 * o + s →
    lutEntry ref i =
      BitVec.ofNat 32 ((ref * semiAt s + 2 ^ Int.toNat (15 - o) / 2) / 2 ^ (15 - o).toNat)) ∧
  (∀ ref i : Nat, ∀ o : Int, -4 ≤ o → o ≤ 5 → (i : Int) = 57 + 12 * o →
    lutEntry ref i = BitVec.ofNat 32 (ref * 2 ^ Int.toNat (15 + o))) ∧
  (∀ ref i : Nat, lutEntry ref 57 = i2fx ref ∧ (i < 120 → lutEntry 0 i = 0)) ∧
  (∀ (s : Nat) (ref : Word), s < 12 → ref.toNat * semiAt s < 2 ^ 63) ∧
  (∀ i : Nat, i < 120 →
    |((lutEntry 440 i).toInt : ℝ) - 440 * (2 : ℝ) ^ (((i : ℝ) - 57) / 12) * 2 ^ 15| ≤ 1 / 2)

/-- The table is positive and strictly ascending for every reference whose top entry stays below 65536 Hz
(43_note_mapper.md section 1: `ref × 2^((LUT_LEN − 58)/12) < 65536`, here raised to the twelfth power). -/
def Obligations.ReferenceTableIsStrictlyAscending : Prop :=
  ∀ (c : Config) (ref : Nat), c.wf → 1 ≤ ref → ref ^ 12 * 2 ^ (lutLen c - 58) < 65536 ^ 12 →
    0 < (lutEntry ref 0).toInt ∧
    ∀ i j : Nat, i < j → j < lutLen c → (lutEntry ref i).toInt < (lutEntry ref j).toInt

/-- The logarithm of the note mapper (43_note_mapper.md section 3): exact on powers of two, between −15.0 and just under
16.0, and non-decreasing; its integer part is that of the logarithm, its fifteen fraction bits come one by one from
squaring the mantissa, and the last clause is the spec's worked trace for 1.5. -/
def Obligations.LogarithmIsMonotone : Prop :=
  (∀ p : Nat, p < 31 → log2Fix (BitVec.ofNat 32 (2 ^ p)) = BitVec.ofInt 32 (((p : Int) - 15) * 2 ^ 15)) ∧
  (∀ x : Word, 1 ≤ x.toInt → -491520 ≤ (log2Fix x).toInt ∧ (log2Fix x).toInt ≤ 524287) ∧
  (∀ x y : Word, 1 ≤ x.toInt → x.toInt ≤ y.toInt → (log2Fix x).toInt ≤ (log2Fix y).toInt) ∧
  (∀ (x : Word) (p : Nat), 2 ^ p ≤ x.toInt → x.toInt < 2 ^ (p + 1) → ∃ m frac : Nat → Nat,
    m 0 = x.toNat * 2 ^ (30 - p) ∧ frac 0 = 0 ∧
    (∀ k < 15, let q := m k * m k / 2 ^ 30
      (2 ^ 31 ≤ q → m (k + 1) = q / 2 ∧ frac (k + 1) = frac k + 2 ^ (14 - k)) ∧
      (q < 2 ^ 31 → m (k + 1) = q ∧ frac (k + 1) = frac k)) ∧
    log2Fix x = BitVec.ofInt 32 (((p : Int) - 15) * 2 ^ 15 + frac 15)) ∧
  log2Fix 0x0000C000 = 0x00004AE0

/-- The logarithm of the note mapper is never above the true base-2 logarithm, and below it by less than 2 units of the
last place (43_note_mapper.md section 3: by about 1 at most). -/
def Obligations.LogarithmNeverExceedsTheTrueOne : Prop :=
  ∀ x : Word, 1 ≤ x.toInt →
    ((log2Fix x).toInt : ℝ) / 2 ^ 15 ≤ Real.logb 2 ((x.toInt : ℝ) / 2 ^ 15) ∧
    Real.logb 2 ((x.toInt : ℝ) / 2 ^ 15) < (((log2Fix x).toInt : ℝ) + 2) / 2 ^ 15

/-- R178: MAPFREQ completes on every state. `i` is the least index whose entry exceeds OPA; with none, with `i = 0` or
with a lower bracket that is not positive only MAPRANGE is written; a zero log-width raises DIVZ before any write; else
NOTE and CENTS are those of the nearer neighbour and MAPRANGE is 0. -/
def Obligations.MapfreqChoosesTheNearerNeighbour : Prop :=
  ∀ s : State,
    let e (k : Nat) : Word := s.mem.word .lut k
    ((∀ k < lutLen s.cfg, (e k).toInt ≤ s.opa.toInt) → exec .mapfreq s = .next { s with maprange := true }) ∧
    (0 < lutLen s.cfg → s.opa.toInt < (e 0).toInt → exec .mapfreq s = .next { s with maprange := true }) ∧
    (∀ i, i + 1 < lutLen s.cfg → (∀ k ≤ i, (e k).toInt ≤ s.opa.toInt) → s.opa.toInt < (e (i + 1)).toInt →
      ((e i).toInt ≤ 0 → exec .mapfreq s = .next { s with maprange := true }) ∧
      (0 < (e i).toInt →
        let ll := (log2Fix (e i)).toInt
        let lu := (log2Fix (e (i + 1))).toInt
        let lf := (log2Fix s.opa).toInt
        let span : Word := BitVec.ofInt 32 (lu - ll)
        let fl := (BitVec.ofInt 32 (((BitVec.ofInt 32 (lf - ll)).toInt * 2 ^ 15).tdiv span.toInt)).toInt
        let fu := (BitVec.ofInt 32 (((BitVec.ofInt 32 (lu - lf)).toInt * 2 ^ 15).tdiv span.toInt)).toInt
        (span = 0 → exec .mapfreq s = .next { s with
          fcode := 1, fatal := true, beatArmed := false, toffArmed := false, toneOn := false }) ∧
        (span ≠ 0 → fl ≤ fu → exec .mapfreq s = .next { s with
          note := BitVec.ofNat 32 i, cents := BitVec.ofInt 32 ((fl * 100 + 16384) / 2 ^ 15),
          maprange := false }) ∧
        (span ≠ 0 → fu < fl → exec .mapfreq s = .next { s with
          note := BitVec.ofNat 32 (i + 1), cents := BitVec.ofInt 32 (-((fu * 100 + 16384) / 2 ^ 15)),
          maprange := false })))

/-- NOTE stays an index of the table and CENTS stays within −50..+50, whatever the table holds: every step keeps it
(43_note_mapper.md section 4, 10_state.md R33 on the ranges). -/
def Obligations.EveryStepKeepsNoteAndCentsInRange : Prop :=
  ∀ s t : State, Inv s → NoteInv s → step s = .next t → NoteInv t

/-- On an ascending positive table whose neighbours have different logarithms, every entry but the last maps to itself
with 0 cents (43_note_mapper.md section 4). -/
def Obligations.TableEntryMapsToItself : Prop :=
  ∀ (s : State) (i : Nat), i + 1 < lutLen s.cfg → lutLen s.cfg ≤ 2 ^ 32 →
    0 < (s.mem.word .lut 0).toInt →
    (∀ j k, j < k → k < lutLen s.cfg → (s.mem.word .lut j).toInt < (s.mem.word .lut k).toInt) →
    log2Fix (s.mem.word .lut i) ≠ log2Fix (s.mem.word .lut (i + 1)) → s.opa = s.mem.word .lut i →
    exec .mapfreq s = .next { s with note := BitVec.ofNat 32 i, cents := 0, maprange := false }

/-- The round trip of the reference pitch (43_note_mapper.md section 4), from any state and in any configuration R8
allows: SETREF with 440 and then MAPFREQ of 440.0 gives note 57 with 0 cents, and of 220.0 note 45 with 0 cents. -/
def Obligations.Reference440MapsToNote57 : Prop :=
  ∀ s : State, s.cfg.wf → s.opa = 440 → ∃ t, exec .setref s = .next t ∧
    exec .mapfreq { t with opa := 0x00DC0000 } =
      .next { t with opa := 0x00DC0000, note := 57, cents := 0, maprange := false } ∧
    exec .mapfreq { t with opa := 0x006E0000 } =
      .next { t with opa := 0x006E0000, note := 45, cents := 0, maprange := false }

/-! ## The beat scheduler -/

/-- R194: SETBEAT for every operand. A selector above 15 raises BADSUBDIV before anything changes; NONE disarms the clock;
every other selector arms it with the interval of the clamped tempo. A sounding tone is left alone. -/
def Obligations.SetbeatArmsTheClampedInterval : Prop :=
  ∀ s : State,
    let sel := s.opb.toNat
    let divisor := [0, 1, 1, 1, 1, 1, 1, 1, 1, 1, 1, 2, 3, 3, 4, 4].getD sel 0
    let bpm := (max 20 (min 300 s.opa.toInt)).toNat
    (15 < sel → exec .setbeat s = .next { s with
      fcode := 2, fatal := true, beatArmed := false, toffArmed := false, toneOn := false }) ∧
    (sel = 0 → exec .setbeat s = .next { s with
      beatArmed := false, beatsel := 0, subbeat := 0, interval := 0, beatCnt := 0 }) ∧
    (1 ≤ sel → sel ≤ 15 → exec .setbeat s = .next { s with
      beatArmed := true, beatsel := BitVec.ofNat 4 sel, subbeat := 0,
      interval := BitVec.ofNat 32 (60000 / bpm / divisor), beatCnt := 60000 / bpm / divisor })

/-- The interval of every tempo and selector lies in 50..3000 ms, and divisor × interval falls short of the true beat by
less than divisor + 1 ms; the rows of the spec's table (44_beat_scheduler.md R193, R195). -/
def Obligations.IntervalStaysBetween50And3000 : Prop :=
  (∀ (bpm : Int) (sel : Nat), 50 ≤ beatInterval bpm sel ∧ beatInterval bpm sel ≤ 3000) ∧
  (∀ bpm sel : Nat, 20 ≤ bpm → bpm ≤ 300 → 1 ≤ sel → sel ≤ 15 → beatInterval bpm sel =
    60000 / bpm / [1, 1, 1, 1, 1, 1, 1, 1, 1, 1, 2, 3, 3, 4, 4].getD (sel - 1) 0) ∧
  (∀ (bpm sel : Nat), 20 ≤ bpm → bpm ≤ 300 →
    bpm * (beatDivisor sel * beatInterval bpm sel) ≤ 60000 ∧
    60000 < bpm * (beatDivisor sel * beatInterval bpm sel + beatDivisor sel + 1)) ∧
  (∀ sel, 1 ≤ sel → sel ≤ 10 → beatInterval 60 sel = 1000) ∧ beatInterval 60 11 = 500 ∧
  beatInterval 60 12 = 333 ∧ beatInterval 60 13 = 333 ∧ beatInterval 60 14 = 250 ∧ beatInterval 60 15 = 250 ∧
  beatInterval 120 11 = 250 ∧ beatInterval 70 12 = 285 ∧ beatInterval 133 15 = 112 ∧ beatInterval 20 1 = 3000 ∧
  beatInterval 300 14 = 50 ∧ beatInterval 7 14 = 750 ∧ beatInterval 1000 14 = 50

/-- A Tick that does not bring the beat clock to 0 (44_beat_scheduler.md R197): each armed timer counts down by one, and a
tone-off timer that reaches 0 ends the tone. -/
def Obligations.TickCountsArmedTimersDown : Prop :=
  ∀ (s : State) (rest : List Event), s.events = .tick :: rest → s.fatal = false →
    (s.toffArmed = true → 1 ≤ s.toffCnt) → (s.beatArmed = true → 2 ≤ s.beatCnt) →
    step s = .next { s with
      events := rest
      toffCnt := if s.toffArmed = true then s.toffCnt - 1 else s.toffCnt
      toneOn := if s.toffArmed = true ∧ s.toffCnt = 1 then false else s.toneOn
      toffArmed := if s.toffCnt = 1 then false else s.toffArmed
      beatCnt := if s.beatArmed = true then s.beatCnt - 1 else s.beatCnt }

/-- R198: a Tick that brings the beat clock to 0 fires it. The clock reloads, the sub-beat advances, and the pattern entry
of the sub-beat before the advance decides the tone; a silent one leaves the tone to the tone-off timer, which counted
down before the clock in the same Tick. -/
def Obligations.FiringPlaysThePatternEntry : Prop :=
  ∀ (s : State) (rest : List Event) (kind : ToneKind), s.events = .tick :: rest → s.fatal = false →
    s.beatArmed = true → s.beatCnt = 1 → (s.toffArmed = true → 1 ≤ s.toffCnt) →
    (patternRow s.cfg s.beatsel.toNat)[s.subbeat]? = some kind →
    step s = .next { s with
      events := rest
      beatCnt := s.interval.toNat
      subbeat := (s.subbeat + 1) % patternLen s.cfg s.beatsel.toNat
      toneOn := if kind = .silent then (if s.toffArmed = true ∧ s.toffCnt = 1 then false else s.toneOn) else true
      toneHigh := if kind = .silent then s.toneHigh else decide (kind = .high)
      toffCnt := if kind = .silent then (if s.toffArmed = true then s.toffCnt - 1 else s.toffCnt) else s.cfg.toneMs
      toffArmed := if kind = .silent then (if s.toffCnt = 1 then false else s.toffArmed) else true }

/-- The tone-off timer never outlives the next firing (44_beat_scheduler.md section 3): every step keeps the gap, so a
firing always finds the tone off. -/
def Obligations.ToneEndsBeforeTheNextFiring : Prop :=
  ∀ s t : State, Inv s → ToneGap s → step s = .next t →
    ToneGap t ∧ (∀ rest, s.events = .tick :: rest → s.fatal = false → s.beatArmed = true → s.beatCnt = 1 →
      s.toneOn = false ∧ s.toffArmed = false)

/-- R196 in time: after a SETBEAT the beat clock fires first exactly INTERVAL Ticks later, not before, with sub-beat 0 of
the new pattern, whatever the old clock and tone were doing. -/
def Obligations.FirstFiringComesAfterOneInterval : Prop :=
  ∀ s : State, Inv s → s.fatal = false → 1 ≤ s.opb.toNat → s.opb.toNat ≤ 15 →
    ∃ t, exec .setbeat s = .next t ∧ t.interval.toNat = beatInterval s.opa.toInt s.opb.toNat ∧
      (∀ n < t.interval.toNat, ∃ u, tickTimes n t = .next u ∧ u.beatCnt = t.interval.toNat - n ∧
        u.subbeat = 0 ∧ u.toneHigh = s.toneHigh ∧ (u.toneOn = true → s.toneOn = true ∧ n < s.cfg.toneMs)) ∧
      ∃ u, tickTimes t.interval.toNat t = .next u ∧ u.beatCnt = t.interval.toNat ∧
        u.subbeat = 1 % patternLen s.cfg s.opb.toNat ∧
        ((patternRow s.cfg s.opb.toNat)[0]? = some .high → u.toneOn = true ∧ u.toneHigh = true) ∧
        ((patternRow s.cfg s.opb.toNat)[0]? = some .low → u.toneOn = true ∧ u.toneHigh = false) ∧
        ((patternRow s.cfg s.opb.toNat)[0]? = some .silent → u.toneOn = false)

/-! ## Faults and the halted unit -/

/-- R226: fault entry writes the code of its cause, halts, cancels both timers, silences the tone, and keeps every other
item. It comes before any write of FXDIV, SETBEAT, MAPFREQ and an illegal word, and after stages S1 to S5 of ESTIMATE. -/
def Obligations.FaultEntryHaltsAndSilences : Prop :=
  ∀ s : State,
    raise .divz s =
      { s with fcode := 1, fatal := true, beatArmed := false, toffArmed := false, toneOn := false } ∧
    raise .badSubdiv s =
      { s with fcode := 2, fatal := true, beatArmed := false, toffArmed := false, toneOn := false } ∧
    raise .illCmd s =
      { s with fcode := 3, fatal := true, beatArmed := false, toffArmed := false, toneOn := false } ∧
    (s.opb = 0 → exec .fxdiv s = .next (raise .divz s)) ∧
    (15 < s.opb.toNat → exec .setbeat s = .next (raise .badSubdiv s)) ∧
    (∀ v, (∀ i, decode v ≠ .ok i) → issueCommand v s = .next (raise .illCmd s)) ∧
    (∀ t, s.fatal = false → exec .mapfreq s = .next t → t.fatal = true → t = raise .divz s) ∧
    (s.ready = true → s.cfg.noiseFloor ≤ (passToPeak s).peakmag.toInt → s7Interp (passToPeak s) = none →
      exec .estimate s = .next (raise .divz (passToPeak s)))

/-- R227: in the halted state a HostWrite to any register and a Tick change nothing, a HostRead works, the acquisition
interface is still accepted. -/
def Obligations.HaltedUnitIgnoresWritesAndTicks : Prop :=
  ∀ (s : State) (rest : List Event), s.fatal = true →
    let u := { s with events := rest }
    (∀ r v, s.events = .hostWrite r v :: rest → step s = .next u) ∧
    (s.events = .tick :: rest → step s = .next u) ∧
    (∀ r, s.events = .hostRead r :: rest → step s = .next { u with reads := portRead s r :: s.reads }) ∧
    (s.events = .acqDone :: rest → step s = .next { u with back := !s.back, ready := true }) ∧
    (∀ k w, k < bufLen s.cfg → s.events = .acqWrite k w :: rest →
      ∃ t, step s = .next t ∧ t = { u with mem := t.mem } ∧ bankWord t (!s.back) k = w) ∧
    faultOut s = true ∧ (Inv s → toneOnOut s = false)

/-- R228 over whole runs: as long as no Reset comes, a halted unit stays halted with its first cause, never stops, and its
operands, results and table stay as they were. -/
def Obligations.OnlyResetLeavesTheHaltedState : Prop :=
  ∀ (n : Nat) (s : State), s.fatal = true → (∀ e ∈ s.events.take n, e ≠ .reset) →
    ∃ t, Sys2Proof.core.run n s = .next t ∧ t.fatal = true ∧ t.fcode = s.fcode ∧ t.opa = s.opa ∧ t.opb = s.opb ∧
      t.resl = s.resl ∧ t.resh = s.resh ∧ t.note = s.note ∧ t.cents = s.cents ∧ t.ravg = s.ravg ∧
      t.toneOn = s.toneOn ∧ (∀ sp k, t.mem.word sp k = s.mem.word sp k)

/-- The unit halts for no cause but the five of the spec's table (60_exceptions.md section 2), each with its code: an
illegal word, a selector above 15, a division by 0, a peak at or above the noise floor whose interpolation has the
denominator 0, and two table entries around OPA, the lower one positive, with the same logarithm. -/
def Obligations.OnlyTheListedCausesHalt : Prop :=
  ∀ s t : State, s.fatal = false → step s = .next t → t.fatal = true →
    ∃ v rest, s.events = .hostWrite 0 v :: rest ∧
      (((∀ i, decode v ≠ .ok i) ∧ t.fcode = 3) ∨
       (decode v = .ok .setbeat ∧ 15 < s.opb.toNat ∧ t.fcode = 2) ∨
       (decode v = .ok .fxdiv ∧ s.opb = 0 ∧ t.fcode = 1) ∨
       (decode v = .ok .estimate ∧ s.ready = true ∧ s.cfg.noiseFloor ≤ (passToPeak s).peakmag.toInt ∧
          s7Interp (passToPeak s) = none ∧ t.fcode = 1) ∨
       (decode v = .ok .mapfreq ∧ t.fcode = 1 ∧ ∃ j, j + 1 < lutLen s.cfg ∧ 0 < (s.mem.word .lut j).toInt ∧
          (∀ k ≤ j, (s.mem.word .lut k).toInt ≤ s.opa.toInt) ∧ s.opa.toInt < (s.mem.word .lut (j + 1)).toInt ∧
          log2Fix (s.mem.word .lut j) = log2Fix (s.mem.word .lut (j + 1))))

/-! ## The register port, acquisition and Reset -/

/-- R35 and R37: the register port. A write stores OPA or OPB, issues a command at CMD, and is ignored at any other number
or while halted; a read returns the register, 0 for CMD and above 16, and changes nothing of the unit (the value read
goes to the model's own list `reads`, log entry 2). -/
def Obligations.RegisterPortFollowsTheAccessRules : Prop :=
  ∀ (s : State) (rest : List Event),
    let u := { s with events := rest }
    (∀ v, s.fatal = false → s.events = .hostWrite 2 v :: rest → step s = .next { u with opa := v }) ∧
    (∀ v, s.fatal = false → s.events = .hostWrite 3 v :: rest → step s = .next { u with opb := v }) ∧
    (∀ v, s.fatal = false → s.events = .hostWrite 0 v :: rest → step s = issueCommand v u) ∧
    (∀ r v, r ≠ 0 → r ≠ 2 → r ≠ 3 → s.events = .hostWrite r v :: rest → step s = .next u) ∧
    (∀ r v, s.fatal = true → s.events = .hostWrite r v :: rest → step s = .next u) ∧
    (∀ r, s.events = .hostRead r :: rest → step s = .next { u with reads := portRead s r :: s.reads }) ∧
    [0, 1, 2, 3, 4, 5, 6, 7, 8, 9, 10, 11, 12, 13, 14, 15, 16].map (portRead s) =
      [0, statusWord s, s.opa, s.opb, s.resl, s.resh, s.errcnt, s.dcmag, s.peakbin, s.peakmag, s.est, s.ravg,
        s.rdev, s.note, s.cents, s.beatsel.zeroExtend 32, s.interval] ∧
    (∀ r, 16 < r → portRead s r = 0)

/-- The fields of STATUS stand where the spec's table puts them, reserved bits read 0 (10_state.md section 4). -/
def Obligations.StatusFieldsStandInTheirPlaces : Prop :=
  ∀ s : State,
    let w := statusWord s
    w.getLsbD 0 = s.ready ∧ w.getLsbD 1 = s.back ∧ w.getLsbD 2 = s.fatal ∧ w.getLsbD 3 = false ∧
    w.extractLsb' 4 4 = s.fcode ∧ w.getLsbD 8 = s.samperr ∧ w.getLsbD 9 = s.maprange ∧
    w.extractLsb' 10 2 = s.rkind ∧ w.getLsbD 12 = s.toneOn ∧ w.getLsbD 13 = s.toneHigh ∧
    w.getLsbD 14 = s.beatArmed ∧ w.getLsbD 15 = s.toffArmed ∧ w.extractLsb' 16 16 = 0

/-- R68: AcqWrite stores one word of the front bank, in any state, and changes no other word of any memory; an index of N
or more is ignored. -/
def Obligations.AcqWriteStoresOneFrontBankWord : Prop :=
  ∀ (s : State) (k : Nat) (w : Sample) (rest : List Event), s.events = .acqWrite k w :: rest →
    (bufLen s.cfg ≤ k → step s = .next { s with events := rest }) ∧
    (k < bufLen s.cfg → ∃ t, step s = .next t ∧ t = { s with events := rest, mem := t.mem } ∧
      bankWord t (!s.back) k = w ∧
      (∀ b i, (b ≠ (!s.back) ∨ i ≠ k) → bankWord t b i = bankWord s b i) ∧
      (∀ sp i, t.mem.word sp i = s.mem.word sp i))

/-- R70: AcqDone exchanges the banks and sets READY, in any state, whether READY was set or not. -/
def Obligations.AcqDoneExchangesTheBanks : Prop :=
  ∀ (s : State) (rest : List Event), s.events = .acqDone :: rest →
    step s = .next { s with events := rest, back := !s.back, ready := true }

/-- The hand-off (20_memory.md section 3): whatever words the acquisition interface writes to the front bank, then handing
it over, those are the words of the back bank, on any unit, halted or not, and stage S1 of the next pass reads them into
FR and counts their flags. -/
def Obligations.HandedOverWordsAreTheOnesIngested : Prop :=
  ∀ (s : State) (ws : List Sample) (rest : List Event), ws.length = bufLen s.cfg →
    s.events = (ws.mapIdx fun k w => Event.acqWrite k w) ++ .acqDone :: rest →
    ∃ t, Sys2Proof.core.run (bufLen s.cfg + 1) s = .next t ∧ t.events = rest ∧ t.ready = true ∧
      t.back = (!s.back) ∧ (∀ k < bufLen s.cfg, bankWord t t.back k = ws.getD k 0) ∧
      (∀ k, bankWord t s.back k = bankWord s s.back k) ∧
      (∀ k < bufLen s.cfg,
        (s1Ingest t).mem.word .fr k = BitVec.ofNat 32 ((ws.getD k 0).toNat % 2 ^ 15 * 2 ^ 15)) ∧
      (s1Ingest t).errcnt = BitVec.ofNat 32 (ws.countP fun w => w.getLsbD 15) ∧
      t = { s with events := rest, mem := t.mem, ready := true, back := !s.back }

/-- R240: Reset, from any state, puts every item of the record to its reset value, and the words of both banks become
unspecified: each reads as the free value of the new count of Resets, which is the model's choice of form (log entry 4).
The parameters, the waiting events and the values read stay (log entries 1, 2, 3). -/
def Obligations.ResetPutsEveryItemToItsResetValue : Prop :=
  ∀ (s : State) (rest : List Event), s.events = .reset :: rest → ∃ t, step s = .next t ∧
    (t.opa, t.opb, t.resl, t.resh, t.errcnt, t.dcmag, t.peakbin, t.peakmag) =
      ((0, 0, 0, 0, 0, 0, 0, 0) : Word × Word × Word × Word × Word × Word × Word × Word) ∧
    (t.est, t.ravg, t.rdev, t.note, t.cents, t.beatsel, t.interval) =
      ((0, 0, 0, 0, 0, 0, 0) : Word × Word × Word × Word × Word × BitVec 4 × Word) ∧
    (t.ready, t.back, t.fatal, t.samperr, t.maprange) = (false, true, false, false, false) ∧
    (t.toneOn, t.toneHigh, t.beatArmed, t.toffArmed) = (false, false, false, false) ∧
    (t.fcode, t.rkind) = ((0, 0) : BitVec 4 × BitVec 2) ∧
    (t.cursor, t.outcnt, t.beatCnt, t.toffCnt, t.subbeat) = (0, 0, 0, 0, 0) ∧
    (∀ sp k, t.mem.word sp k = 0) ∧ statusWord t = 0x00000002 ∧
    (∀ b k, bankWord t b k = Config.unwrittenSample (s.resets + 1) b k) ∧
    t.cfg = s.cfg ∧ t.events = rest ∧ t.reads = s.reads

/-! ## The whole machine -/

/-- The state after reset meets the invariant, and the ranges of the mapper and the gap of the scheduler with it. -/
def Obligations.ResetMeetsTheInvariant : Prop :=
  Inv State.reset ∧ NoteInv State.reset ∧ ToneGap State.reset

/-- Every step keeps the invariant: the configuration is legal, every memory keeps its one canonical form, the counts
stay in range, RAVG and RDEV stay what the history makes them, the scheduler and the flags stay consistent
(42_smoother.md section 3, 44_beat_scheduler.md section 6). -/
def Obligations.EveryStepKeepsTheInvariant : Prop :=
  ∀ s t : State, Inv s → step s = .next t → Inv t

/-- In every state the invariant allows, every step completes, in a state the invariant allows again: no event and no
command stops with a fault or a refusal of the model, every index the unit forms is in range (20_memory.md section 2). The three faults of the model concern only
states that no run reaches (log entry 7). -/
def Obligations.NoStepStopsFromALegalState : Prop :=
  ∀ s : State, Inv s → ∃ t, step s = .next t ∧ Inv t

/-- Which command writes what (10_state.md section 1, R31, 44_beat_scheduler.md R194): no command writes OPA, OPB,
BACK, TONE_HIGH, TOFF_CNT, the parameters or the model's own lists; RESH is written by FX2F alone; MAPFREQ, SETREF and
SETBEAT write neither result register; only SETREF writes LUT; only MAPFREQ writes NOTE, CENTS and MAPRANGE; only
ESTIMATE writes RKIND, READY, the diagnostics of a pass, the smoother, the back bank and the other spaces; only
SETBEAT writes BEATSEL, INTERVAL, SUBBEAT and BEAT_CNT; and a command that does not halt the unit leaves FCODE, the
tone and its timer, and, but for SETBEAT, BEAT_ARMED. -/
def Obligations.CommandsWriteOnlyTheirOwnResults : Prop :=
  ∀ (i : Instr) (s t : State), exec i s = .next t →
    t.opa = s.opa ∧ t.opb = s.opb ∧ t.back = s.back ∧ t.toneHigh = s.toneHigh ∧ t.toffCnt = s.toffCnt ∧
    t.cfg = s.cfg ∧ t.resets = s.resets ∧ t.events = s.events ∧ t.reads = s.reads ∧
    (i ≠ .fx2f → t.resh = s.resh) ∧
    (i = .mapfreq ∨ i = .setref ∨ i = .setbeat → t.resl = s.resl ∧ t.resh = s.resh) ∧
    (i ≠ .setref → ∀ k, t.mem.word .lut k = s.mem.word .lut k) ∧
    (i ≠ .mapfreq → t.note = s.note ∧ t.cents = s.cents ∧ t.maprange = s.maprange) ∧
    (i ≠ .estimate → t.rkind = s.rkind ∧ t.ready = s.ready ∧ t.samperr = s.samperr ∧ t.errcnt = s.errcnt ∧
      t.dcmag = s.dcmag ∧ t.peakbin = s.peakbin ∧ t.peakmag = s.peakmag ∧ t.est = s.est ∧ t.ravg = s.ravg ∧
      t.rdev = s.rdev ∧ t.cursor = s.cursor ∧ t.outcnt = s.outcnt ∧ (∀ b, t.mem.bank b = s.mem.bank b) ∧
      ∀ sp, sp ≠ .lut → ∀ k, t.mem.word sp k = s.mem.word sp k) ∧
    (i ≠ .setbeat → t.beatsel = s.beatsel ∧ t.interval = s.interval ∧ t.subbeat = s.subbeat ∧ t.beatCnt = s.beatCnt) ∧
    (s.fatal = false → t.fatal = false → t.fcode = s.fcode ∧ t.toneOn = s.toneOn ∧ t.toffArmed = s.toffArmed ∧
      (i ≠ .setbeat → t.beatArmed = s.beatArmed)) ∧
    (∀ k, bankWord t (!s.back) k = bankWord s (!s.back) k)

/-- The scheduler and the pitch pipeline share no state but the fault machinery (70_reset_and_hazards.md section 2): a
command other than SETBEAT that does not halt the unit leaves the whole scheduler alone, and SETBEAT without a fault and
Tick leave everything else alone. -/
def Obligations.SchedulerAndPipelineShareNoState : Prop :=
  (∀ (i : Instr) (s t : State), i ≠ .setbeat → exec i s = .next t → t.fatal = s.fatal → s.fatal = false →
    t.beatsel = s.beatsel ∧ t.interval = s.interval ∧ t.beatArmed = s.beatArmed ∧ t.beatCnt = s.beatCnt ∧
    t.subbeat = s.subbeat ∧ t.toffArmed = s.toffArmed ∧ t.toffCnt = s.toffCnt ∧ t.toneOn = s.toneOn ∧
    t.toneHigh = s.toneHigh) ∧
  (∀ s t : State, (exec .setbeat s = .next t ∧ t.fatal = s.fatal ∧ s.fatal = false) ∨ tickEvent s = .next t →
    t = { s with
      beatsel := t.beatsel, interval := t.interval, beatArmed := t.beatArmed, beatCnt := t.beatCnt,
      subbeat := t.subbeat, toffArmed := t.toffArmed, toffCnt := t.toffCnt, toneOn := t.toneOn,
      toneHigh := t.toneHigh })

/-- The parameters are the same in every state of a run (10_state.md R56), and only reads add to the values read, one
value each (log entry 2): a step whose event is a HostRead puts the value of that register in front, any other step
leaves the list as it was, and a run of `n` steps adds as many values as there are HostReads among the first `n`
events. -/
def Obligations.ParametersNeverChange : Prop :=
  (∀ s t : State, step s = .next t →
    (∀ r rest, s.events = .hostRead r :: rest → t.reads = portRead s r :: s.reads) ∧
    ((∀ r rest, s.events ≠ .hostRead r :: rest) → t.reads = s.reads)) ∧
  ∀ (n : Nat) (s t : State), Sys2Proof.core.run n s = .next t →
    t.cfg = s.cfg ∧ t.events = s.events.drop n ∧ ∃ new, t.reads = new ++ s.reads ∧
      new.length = (s.events.take n).countP isHostRead

/-- R46: each entry of SEMI is the integer nearest to `2^(s/12) × 2^30`. -/
def Obligations.SemitoneRomIsTheRoundedPower : Prop :=
  ∀ s < 12, |((semiAt s : ℕ) : ℝ) - (2 : ℝ) ^ ((s : ℝ) / 12) * 2 ^ 30| ≤ 1 / 2

/-- R41 for N = 64: each entry of SINE in the reference configuration is the integer nearest to
`sin(2πk/64) × 32768`. -/
def Obligations.SineRomIsTheRoundedSine : Prop :=
  refConfig.SineIsFormula
end

