-- ==== Sys2Proof/Laws/Kernel.lean ====
section
/-!
SUPPORT. The primitives of the pseudocode and the arithmetic kernel: readings and narrowings, and one lemma per kernel
function and per kernel command that says what it does.
-/
namespace Sys2Proof.Machine

/-! ## Readings and narrowings -/

theorem sext_ge (w : Word) : -2147483648 ≤ sext w := by
  have := BitVec.le_toInt w
  simp only [sext]; omega

theorem sext_lt (w : Word) : sext w < 2147483648 := by
  have := BitVec.toInt_lt (x := w)
  simp only [sext]; omega

@[simp] theorem wrap32_sext (w : Word) : wrap32 (sext w) = w := BitVec.ofInt_toInt

theorem sext_wrap32 {v : Int} (h1 : -2147483648 ≤ v) (h2 : v < 2147483648) : sext (wrap32 v) = v := by
  simp only [sext, wrap32, BitVec.toInt_ofInt]
  exact Int.bmod_eq_of_le (by norm_num; omega) (by norm_num; omega)

theorem sext_inj {a b : Word} (h : sext a = sext b) : a = b := BitVec.eq_of_toInt_eq h

theorem sext_eq_zero {a : Word} : sext a = 0 ↔ a = 0 :=
  ⟨fun h => BitVec.eq_of_toInt_eq (by simpa [sext] using h), fun h => by simp [h, sext]⟩

@[simp] theorem sext_zero : sext 0#32 = 0 := by decide

@[simp] theorem wrap32_zero : wrap32 0 = 0 := by decide

theorem wrap32_eq_zero {v : Int} (h1 : -4294967296 < v) (h2 : v < 4294967296) : wrap32 v = 0 ↔ v = 0 := by
  constructor
  · intro h
    have h3 : ((2 ^ 32 : Nat) : Int) ∣ v := by
      have := congrArg BitVec.toNat h
      rw [wrap32, BitVec.toNat_ofInt] at this
      have h0 : (0 : Word).toNat = 0 := rfl
      rw [h0] at this
      omega
    omega
  · rintro rfl; rfl

/-- The difference of two words is the zero word only for equal words. -/
theorem wrap32_sub_eq_zero {a b : Word} : wrap32 (sext a - sext b) = 0 ↔ a = b := by
  have h1 := sext_ge a; have h2 := sext_lt a; have h3 := sext_ge b; have h4 := sext_lt b
  rw [wrap32_eq_zero (by omega) (by omega)]
  exact ⟨fun h => sext_inj (by omega), fun h => by rw [h]; omega⟩

theorem asr_eq (v : Int) (n : Nat) : asr v n = v / 2 ^ n := by simp [asr]

theorem shl_eq (v : Int) (n : Nat) : shl v n = v * 2 ^ n := by simp [shl]

/-! ## The kernel functions -/

theorem fxmul_eq (a b : Word) : fxmul a b = BitVec.ofInt 32 (a.toInt * b.toInt / 2 ^ 15) := by
  simp [fxmul, wrap32, sext, asr]

/-- Everything a divide can give: no value for a zero divisor, the truncated quotient else. -/
theorem fxdiv_cases (a b : Word) :
    (b = 0 ∧ fxdiv a b = none) ∨
    (b ≠ 0 ∧ fxdiv a b = some (BitVec.ofInt 32 ((a.toInt * 2 ^ 15).tdiv b.toInt))) := by
  unfold fxdiv
  by_cases h : b = 0
  · exact .inl ⟨h, if_pos (sext_eq_zero.2 h)⟩
  · exact .inr ⟨h, by rw [if_neg (by simpa [sext_eq_zero] using h)]; simp [wrap32, tdiv, shl, sext]⟩

theorem fxdiv_eq_none {a b : Word} : fxdiv a b = none ↔ b = 0 := by
  rcases fxdiv_cases a b with ⟨h, h'⟩ | ⟨h, h'⟩
  · exact ⟨fun _ => h, fun _ => h'⟩
  · exact ⟨fun h0 => (by rw [h'] at h0; cases h0), fun h0 => absurd h0 h⟩

theorem fxdiv_of_ne {a b : Word} (h : b ≠ 0) :
    fxdiv a b = some (BitVec.ofInt 32 ((a.toInt * 2 ^ 15).tdiv b.toInt)) := by
  rcases fxdiv_cases a b with ⟨h', _⟩ | ⟨_, h'⟩
  · exact absurd h' h
  · exact h'

theorem i2fx_eq (n : Int) : i2fx n = BitVec.ofInt 32 (n * 2 ^ 15) := by simp [i2fx, wrap32, shl]

/-- A quotient toward zero lies between 0 and the dividend. -/
theorem tdiv_natAbs_le (a b : Int) : (a.tdiv b).natAbs ≤ a.natAbs := by
  rw [Int.natAbs_tdiv]; exact Nat.div_le_self _ _

/-! ## The commands of the kernel -/

theorem exec_fxmul (s : State) : exec .fxmul s = .next { s with resl := fxmul s.opa s.opb } := rfl

/-- Everything FXDIV can do. -/
theorem exec_fxdiv_cases (s : State) :
    (s.opb = 0 ∧ exec .fxdiv s = .next (raise .divz s)) ∨
    (s.opb ≠ 0 ∧ ∃ q, fxdiv s.opa s.opb = some q ∧ exec .fxdiv s = .next { s with resl := q }) := by
  show (_ ∧ execFxdiv s = _) ∨ (_ ∧ ∃ q, _ ∧ execFxdiv s = _)
  unfold execFxdiv opaFix opbFix
  rcases fxdiv_cases s.opa s.opb with ⟨h, h'⟩ | ⟨h, h'⟩
  · exact .inl ⟨h, by rw [h']⟩
  · exact .inr ⟨h, _, h', by rw [h']⟩

theorem exec_i2fx (s : State) : exec .i2fx s = .next { s with resl := i2fx s.opa.toInt } := rfl

theorem exec_fx2f (s : State) : exec .fx2f s = .next { s with
    resh := (fx2f s.opa).extractLsb' 32 32
    resl := (fx2f s.opa).extractLsb' 0 32 } := rfl

end Sys2Proof.Machine
end

