-- ==== Sys2Proof/Laws/Beat.lean ====
section
/-!
SUPPORT. The beat scheduler: everything SETBEAT and a Tick can do.
-/
namespace Sys2Proof.Machine

/-- The clamped tempo lies in 20..300. -/
theorem clampBpm_range (bpm : Int) : 20 ≤ clampBpm bpm ∧ clampBpm bpm ≤ 300 := by
  unfold clampBpm
  split_ifs <;> omega

theorem beatDivisor_range (sel : Nat) : 1 ≤ beatDivisor sel ∧ beatDivisor sel ≤ 4 := by
  unfold beatDivisor
  split_ifs <;> omega

/-- Everything SETBEAT can do. -/
theorem exec_setbeat_cases (s : State) :
    (15 < s.opb.toNat ∧ exec .setbeat s = .next (raise .badSubdiv s)) ∨
    (s.opb.toNat = 0 ∧ exec .setbeat s =
      .next { s with beatArmed := false, beatsel := 0, subbeat := 0, interval := 0, beatCnt := 0 }) ∨
    (1 ≤ s.opb.toNat ∧ s.opb.toNat ≤ 15 ∧ exec .setbeat s = .next { s with
      beatArmed := true
      beatsel := BitVec.ofNat 4 s.opb.toNat
      subbeat := 0
      interval := BitVec.ofNat 32 (beatInterval s.opa.toInt s.opb.toNat)
      beatCnt := beatInterval s.opa.toInt s.opb.toNat }) := by
  show (_ ∧ execSetbeat s = _) ∨ (_ ∧ execSetbeat s = _) ∨ (_ ∧ _ ∧ execSetbeat s = _)
  unfold execSetbeat opbNat opaInt zext sext
  by_cases h1 : 15 < s.opb.toNat
  · exact .inl ⟨h1, if_pos h1⟩
  · by_cases h0 : s.opb.toNat = 0
    · exact .inr (.inl ⟨h0, by rw [if_neg h1, if_pos h0]⟩)
    · exact .inr (.inr ⟨by omega, by omega, by rw [if_neg h1, if_neg h0]⟩)

/-- Everything a firing can do; the last case is the fault of a sub-beat past the end of the pattern. -/
theorem beatFire_cases (s : State) :
    (∃ kind, (patternRow s.cfg s.beatsel.toNat)[s.subbeat]? = some kind ∧
      ((kind = .silent ∧ beatFire s = .ok { s with
          beatCnt := zext s.interval, subbeat := (s.subbeat + 1) % patternLen s.cfg s.beatsel.toNat }) ∨
       (kind ≠ .silent ∧ beatFire s = .ok (soundTone (decide (kind = .high)) { s with
          beatCnt := zext s.interval, subbeat := (s.subbeat + 1) % patternLen s.cfg s.beatsel.toNat })))) ∨
    (patternLen s.cfg s.beatsel.toNat ≤ s.subbeat ∧ beatFire s = .error .noPatternEntry) := by
  unfold beatFire
  cases h : (patternRow s.cfg s.beatsel.toNat)[s.subbeat]? with
  | none => exact .inr ⟨by simpa [patternLen] using h, rfl⟩
  | some kind =>
    refine .inl ⟨kind, rfl, ?_⟩
    cases kind
    · exact .inr ⟨by decide, rfl⟩
    · exact .inr ⟨by decide, rfl⟩
    · exact .inl ⟨rfl, rfl⟩

/-- Everything part (a) of a Tick can do. -/
theorem tickToneOff_cases (s : State) :
    (s.toffArmed = false ∧ tickToneOff s = .ok s) ∨
    (s.toffArmed = true ∧ s.toffCnt = 1 ∧ tickToneOff s =
      .ok { s with toffCnt := 0, toneOn := false, toffArmed := false }) ∨
    (s.toffArmed = true ∧ 2 ≤ s.toffCnt ∧ tickToneOff s = .ok { s with toffCnt := s.toffCnt - 1 }) ∨
    (s.toffArmed = true ∧ s.toffCnt = 0 ∧ tickToneOff s = .error .timerUnderflow) := by
  unfold tickToneOff
  by_cases h : s.toffArmed = false
  · exact .inl ⟨h, if_pos h⟩
  · have h' : s.toffArmed = true := by simpa using h
    rw [if_neg h]
    refine .inr ?_
    match hc : s.toffCnt with
    | 0 => exact .inr (.inr ⟨h', rfl, rfl⟩)
    | 1 => exact .inl ⟨h', rfl, rfl⟩
    | n + 2 => exact .inr (.inl ⟨h', by omega, rfl⟩)

/-- Everything part (b) of a Tick can do. -/
theorem tickBeat_cases (s : State) :
    (s.beatArmed = false ∧ tickBeat s = .ok s) ∨
    (s.beatArmed = true ∧ s.beatCnt = 1 ∧ tickBeat s = beatFire { s with beatCnt := 0 }) ∨
    (s.beatArmed = true ∧ 2 ≤ s.beatCnt ∧ tickBeat s = .ok { s with beatCnt := s.beatCnt - 1 }) ∨
    (s.beatArmed = true ∧ s.beatCnt = 0 ∧ tickBeat s = .error .timerUnderflow) := by
  unfold tickBeat
  by_cases h : s.beatArmed = false
  · exact .inl ⟨h, if_pos h⟩
  · have h' : s.beatArmed = true := by simpa using h
    rw [if_neg h]
    refine .inr ?_
    match hc : s.beatCnt with
    | 0 => exact .inr (.inr ⟨h', rfl, rfl⟩)
    | 1 => exact .inl ⟨h', rfl, rfl⟩
    | n + 2 => exact .inr (.inl ⟨h', by omega, rfl⟩)

/-- Everything a Tick can do. -/
theorem tickEvent_cases (s : State) :
    (s.fatal = true ∧ tickEvent s = .next s) ∨
    (s.fatal = false ∧
      ((∃ t, tickToneOff s = .ok t ∧
          ((∃ u, tickBeat t = .ok u ∧ tickEvent s = .next u) ∨
           (∃ e, tickBeat t = .error e ∧ tickEvent s = .fault e))) ∨
       (∃ e, tickToneOff s = .error e ∧ tickEvent s = .fault e))) := by
  unfold tickEvent
  by_cases h : s.fatal = true
  · exact .inl ⟨h, if_pos h⟩
  · refine .inr ⟨by simpa using h, ?_⟩
    rw [if_neg h]
    cases ha : tickToneOff s with
    | error e => exact .inr ⟨e, rfl, rfl⟩
    | ok t =>
      refine .inl ⟨t, rfl, ?_⟩
      cases hb : tickBeat t with
      | error e => exact .inr ⟨e, rfl, by simp only [hb]⟩
      | ok u => exact .inl ⟨u, rfl, by simp only [hb]⟩

/-- Part (a) writes the tone and its timer only. -/
theorem tickToneOff_frame {s t : State} (h : tickToneOff s = .ok t) :
    t = { s with toffCnt := t.toffCnt, toneOn := t.toneOn, toffArmed := t.toffArmed } := by
  rcases tickToneOff_cases s with ⟨_, h'⟩ | ⟨_, _, h'⟩ | ⟨_, _, h'⟩ | ⟨_, _, h'⟩ <;> rw [h'] at h
  · obtain rfl := Except.ok.inj h; rfl
  · obtain rfl := Except.ok.inj h; rfl
  · obtain rfl := Except.ok.inj h; rfl
  · cases h

/-- A firing writes the scheduler only. -/
theorem beatFire_frame {s t : State} (h : beatFire s = .ok t) :
    t = { s with
      beatCnt := t.beatCnt, subbeat := t.subbeat, toffCnt := t.toffCnt, toneOn := t.toneOn, toneHigh := t.toneHigh,
      toffArmed := t.toffArmed } := by
  rcases beatFire_cases s with ⟨_, _, ⟨_, h'⟩ | ⟨_, h'⟩⟩ | ⟨_, h'⟩ <;> rw [h'] at h
  · obtain rfl := Except.ok.inj h; rfl
  · obtain rfl := Except.ok.inj h; rfl
  · cases h

/-- Part (b) writes the scheduler only. -/
theorem tickBeat_frame {s t : State} (h : tickBeat s = .ok t) :
    t = { s with
      beatCnt := t.beatCnt, subbeat := t.subbeat, toffCnt := t.toffCnt, toneOn := t.toneOn, toneHigh := t.toneHigh,
      toffArmed := t.toffArmed } := by
  rcases tickBeat_cases s with ⟨_, h'⟩ | ⟨_, _, h'⟩ | ⟨_, _, h'⟩ | ⟨_, _, h'⟩ <;> rw [h'] at h
  · obtain rfl := Except.ok.inj h; rfl
  · exact beatFire_frame h
  · obtain rfl := Except.ok.inj h; rfl
  · cases h

end Sys2Proof.Machine
end

