-- ==== Sys2Proof/Laws/Smoother.lean ====
section
/-!
SUPPORT. The smoother: everything one call can do, and what a call that succeeds leaves alone.
-/
namespace Sys2Proof.Machine

/-- The state of an outlier that is stashed at SIDE[OUTCNT] and counted. -/
theorem stash_store {s : State} (f : Word) (h : s.outcnt < s.cfg.outlierThresh) :
    Memory.store s.cfg s.mem .side s.outcnt f =
      .ok (s.mem.setSpace .side (ramWrite (s.mem.space .side) s.outcnt f)) := by
  unfold Memory.store
  exact if_pos h

/-- Everything a call of the smoother can do. The last two cases are the faults of states that no run reaches. -/
theorem smooth_cases (f : Word) (s : State) :
    (isOutlier f s ∧ s.outcnt + 1 < s.cfg.outlierThresh ∧ ∃ m, Memory.store s.cfg s.mem .side s.outcnt f = .ok m ∧
      smooth f s = .ok { s with mem := m, outcnt := s.outcnt + 1 }) ∨
    (isOutlier f s ∧ s.outcnt + 1 = s.cfg.outlierThresh ∧ ∃ m, Memory.store s.cfg s.mem .side s.outcnt f = .ok m ∧
      smooth f s = .ok (regimeChange { s with mem := m, outcnt := s.outcnt + 1 })) ∨
    (¬isOutlier f s ∧ s.cursor < s.cfg.rollingItems ∧ ∃ m, Memory.store s.cfg s.mem .hist s.cursor f = .ok m ∧
      smooth f s = .ok (recompute { s with mem := m, outcnt := 0, cursor := (s.cursor + 1) % s.cfg.rollingItems })) ∨
    (isOutlier f s ∧ s.cfg.outlierThresh ≤ s.outcnt ∧ smooth f s = .error (.noSuchWord .side)) ∨
    (¬isOutlier f s ∧ s.cfg.rollingItems ≤ s.cursor ∧ smooth f s = .error (.noSuchWord .hist)) := by
  unfold smooth
  by_cases ho : isOutlier f s
  · simp only [if_pos ho]
    rcases store_cases s.cfg s.mem .side s.outcnt f with ⟨hi, h⟩ | ⟨hi, h⟩
    · simp only [spaceLen] at hi
      by_cases hc : s.cfg.outlierThresh ≤ s.outcnt + 1
      · exact .inr (.inl ⟨ho, by omega, _, h, by rw [h]; simp [hc]⟩)
      · exact .inl ⟨ho, by omega, _, h, by rw [h]; simp [hc]⟩
    · exact .inr (.inr (.inr (.inl ⟨ho, hi, by rw [h]⟩)))
  · simp only [if_neg ho]
    rcases store_cases s.cfg s.mem .hist s.cursor f with ⟨hi, h⟩ | ⟨hi, h⟩
    · exact .inr (.inr (.inl ⟨ho, hi, _, h, by rw [h]⟩))
    · exact .inr (.inr (.inr (.inr ⟨ho, hi, by rw [h]⟩)))

/-- A call completes when both counts are in range. -/
theorem smooth_completes (f : Word) {s : State} (h1 : s.outcnt < s.cfg.outlierThresh)
    (h2 : s.cursor < s.cfg.rollingItems) : ∃ t, smooth f s = .ok t := by
  rcases smooth_cases f s with ⟨_, _, _, _, h⟩ | ⟨_, _, _, _, h⟩ | ⟨_, _, _, _, h⟩ | ⟨_, h, _⟩ | ⟨_, h, _⟩
  · exact ⟨_, h⟩
  · exact ⟨_, h⟩
  · exact ⟨_, h⟩
  · omega
  · omega

/-- A call writes the smoother's own items and nothing else. -/
theorem smooth_frame {f : Word} {s t : State} (h : smooth f s = .ok t) :
    t = { s with mem := t.mem, ravg := t.ravg, rdev := t.rdev, cursor := t.cursor, outcnt := t.outcnt } := by
  rcases smooth_cases f s with ⟨_, _, _, _, h'⟩ | ⟨_, _, _, _, h'⟩ | ⟨_, _, _, _, h'⟩ | ⟨_, _, h'⟩ | ⟨_, _, h'⟩ <;>
    rw [h'] at h
  · obtain rfl := Except.ok.inj h; rfl
  · obtain rfl := Except.ok.inj h; rfl
  · obtain rfl := Except.ok.inj h; rfl
  · cases h
  · cases h

/-- A call writes words of HIST and SIDE only. -/
theorem smooth_mem {f : Word} {s t : State} (h : smooth f s = .ok t) :
    (∀ b, t.mem.bank b = s.mem.bank b) ∧
    ∀ sp, sp ≠ .hist → sp ≠ .side → ∀ k, t.mem.word sp k = s.mem.word sp k := by
  rcases smooth_cases f s with ⟨_, _, m, hm, h'⟩ | ⟨_, _, m, hm, h'⟩ | ⟨_, _, m, hm, h'⟩ | ⟨_, _, h'⟩ | ⟨_, _, h'⟩ <;>
    rw [h'] at h
  · obtain rfl := Except.ok.inj h
    exact ⟨store_bank hm, fun sp _ h2 k => by simp [store_word hm, h2]⟩
  · obtain rfl := Except.ok.inj h
    refine ⟨fun b => ?_, fun sp h1 h2 k => ?_⟩
    · rw [regimeChange_mem, bank_fill]; exact store_bank hm b
    · rw [regimeChange_mem, word_fill_ne _ _ _ h1]; simp [store_word hm, h2]
  · obtain rfl := Except.ok.inj h
    exact ⟨store_bank hm, fun sp h1 _ k => by simp [store_word hm, h1]⟩
  · cases h
  · cases h

/-- A call keeps the canonical form of memory. -/
theorem smooth_wf {f : Word} {s t : State} (hw : s.mem.wf s.cfg) (h : smooth f s = .ok t) : t.mem.wf s.cfg := by
  rcases smooth_cases f s with ⟨_, _, m, hm, h'⟩ | ⟨_, _, m, hm, h'⟩ | ⟨_, _, m, hm, h'⟩ | ⟨_, _, h'⟩ | ⟨_, _, h'⟩ <;>
    rw [h'] at h
  · obtain rfl := Except.ok.inj h; exact store_wf hw hm
  · obtain rfl := Except.ok.inj h
    rw [regimeChange_mem]
    exact fill_wf (store_wf hw hm) (by simp [spaceLen])
  · obtain rfl := Except.ok.inj h; exact store_wf hw hm
  · cases h
  · cases h

/-- The mean depends on nothing but the words. -/
theorem words_congr {m m' : Memory} {sp : RamSpace} {n : Nat} (h : ∀ k < n, m.word sp k = m'.word sp k) :
    m.words sp n = m'.words sp n := by
  unfold Memory.words
  exact List.map_congr_left fun k hk => h k (List.mem_range.1 hk)

@[simp] theorem meanOfFilled_replicate_zero (n : Nat) : meanOfFilled (List.replicate n 0#32) = 0 := by
  simp [meanOfFilled]

@[simp] theorem fxmul_zero_left (b : Word) : fxmul 0#32 b = 0 := by simp [fxmul_eq]

end Sys2Proof.Machine
end

