-- ==== Sys2Proof/Laws/Estimator.lean ====
section
/-!
SUPPORT. The estimator: what each stage writes and what it leaves alone, and everything ESTIMATE can do.
-/
namespace Sys2Proof.Machine

/-! ## S1 -/

@[simp] theorem bankWords_length (s : State) (b : Bool) : (bankWords s b).length = bufLen s.cfg := by
  simp [bankWords]

theorem bankWords_getD {s : State} {b : Bool} {k : Nat} (h : k < bufLen s.cfg) :
    (bankWords s b).getD k 0 = bankWord s b k := by
  simp [bankWords, List.getD_eq_getElem?_getD, h]

/-- Scrubbing leaves every word outside the list's place alone. -/
theorem memFind_scrub_lt (ws : List Sample) (k i : Nat) (m : Mem 16) (h : i < k) :
    memFind (scrubBank k ws m) i = memFind m i := by
  induction ws generalizing k m with
  | nil => rfl
  | cons w rest ih =>
    rw [scrubBank, ih _ _ (by omega)]
    split_ifs
    · exact memFind_insert_ne _ _ (by omega)
    · rfl

/-- What scrubbing leaves at a place of the list. -/
theorem memFind_scrub (ws : List Sample) (k i : Nat) (m : Mem 16) (h : i < ws.length) :
    memFind (scrubBank k ws m) (k + i) =
      if sampleFlag ws[i] then some (sampleScrub ws[i]) else memFind m (k + i) := by
  induction ws generalizing k i m with
  | nil => simp at h
  | cons w rest ih =>
    cases i with
    | zero =>
      rw [scrubBank, Nat.add_zero, memFind_scrub_lt _ _ _ _ (by omega), List.getElem_cons_zero]
      split_ifs <;> simp
    | succ i =>
      have hi : i < rest.length := by simpa using h
      rw [scrubBank, show k + (i + 1) = k + 1 + i by omega, ih _ _ _ hi, List.getElem_cons_succ]
      congr 1
      split_ifs
      · exact memFind_insert_ne _ _ (by omega)
      · rfl

theorem memFind_scrub_ge (ws : List Sample) (k i : Nat) (m : Mem 16) (h : k + ws.length ≤ i) :
    memFind (scrubBank k ws m) i = memFind m i := by
  induction ws generalizing k m with
  | nil => rfl
  | cons w rest ih =>
    simp only [List.length_cons] at h
    rw [scrubBank, ih _ _ (by omega)]
    split_ifs
    · exact memFind_insert_ne _ _ (by omega)
    · rfl

theorem scrubBank_ordered {len : Nat} (ws : List Sample) (k : Nat) (m : Mem 16) (hm : memOrdered len m)
    (h : k + ws.length ≤ len) : memOrdered len (scrubBank k ws m) := by
  induction ws generalizing k m with
  | nil => exact hm
  | cons w rest ih =>
    simp only [List.length_cons] at h
    rw [scrubBank]
    refine ih _ _ ?_ (by omega)
    split_ifs
    · exact memInsert_ordered _ hm (by omega)
    · exact hm

/-- A word without its flag is its own scrubbed word. -/
theorem sampleScrub_of_not_flag {w : Sample} (h : sampleFlag w = false) : sampleScrub w = w := by
  have h' : w.getLsbD 15 = false := h
  refine BitVec.eq_of_getLsbD_eq fun i hi => ?_
  rw [sampleScrub, BitVec.getLsbD_and]
  by_cases h15 : i = 15
  · rw [h15, h', Bool.false_and]
  · have : (0x7FFF : BitVec 16).getLsbD i = true := by interval_cases i <;> first | rfl | exact absurd rfl h15
    rw [this, Bool.and_true]

theorem s1Ingest_bank_back (s : State) :
    (s1Ingest s).mem.bank s.back = scrubBank 0 (bankWords s s.back) (s.mem.bank s.back) := by
  simp [s1Ingest_mem]

theorem s1Ingest_bank_front (s : State) : (s1Ingest s).mem.bank (!s.back) = s.mem.bank (!s.back) := by
  simp [s1Ingest_mem]

/-- Stage S1 leaves the scrubbed words in the back bank. -/
theorem s1Ingest_bankWord_back (s : State) {k : Nat} (h : k < bufLen s.cfg) :
    bankWord (s1Ingest s) s.back k = sampleScrub (bankWord s s.back k) := by
  have hk : k < (bankWords s s.back).length := by simpa using h
  have hw : (bankWords s s.back)[k] = bankWord s s.back k := by simp [bankWords]
  have hf := memFind_scrub (bankWords s s.back) 0 k (s.mem.bank s.back) hk
  rw [Nat.zero_add, hw] at hf
  rw [bankWord, s1Ingest_bank_back, hf]
  cases hfl : sampleFlag (bankWord s s.back k) with
  | true => simp
  | false =>
    rw [sampleScrub_of_not_flag hfl]
    rfl

theorem s1Ingest_bankWord_front (s : State) (k : Nat) : bankWord (s1Ingest s) (!s.back) k = bankWord s (!s.back) k := by
  rw [bankWord, s1Ingest_bank_front]; rfl

theorem s1Ingest_word_fr (s : State) {k : Nat} (h : k < bufLen s.cfg) :
    (s1Ingest s).mem.word .fr k = i2fx (sampleReading (bankWord s s.back k)) := by
  rw [s1Ingest_mem, word_fill_ne _ _ _ (by decide), word_fill]
  simp [bankWords, List.getD_eq_getElem?_getD, h]

theorem s1Ingest_word_fi (s : State) (k : Nat) : (s1Ingest s).mem.word .fi k = 0 := by
  rw [s1Ingest_mem, word_fill]
  by_cases h : k < bufLen s.cfg <;> simp [List.getD_eq_getElem?_getD, h]

theorem s1Ingest_word_ne (s : State) {sp : RamSpace} (h1 : sp ≠ .fr) (h2 : sp ≠ .fi) (k : Nat) :
    (s1Ingest s).mem.word sp k = s.mem.word sp k := by
  rw [s1Ingest_mem, word_fill_ne _ _ _ h2, word_fill_ne _ _ _ h1, word_setBank]

theorem s1Ingest_wf {s : State} (h : s.mem.wf s.cfg) : (s1Ingest s).mem.wf s.cfg := by
  rw [s1Ingest_mem]
  refine fill_wf (fill_wf (setBank_wf h ?_) (by simp [spaceLen])) (by simp [spaceLen])
  exact scrubBank_ordered _ _ _ (bank_ordered h _) (by simp)

/-! ## S2 to S5 -/

theorem s2Window_word_fr (s : State) {k : Nat} (h : k < bufLen s.cfg) :
    (s2Window s).mem.word .fr k = fxmul (s.mem.word .fr k) (windowCoeff s.cfg k) := by
  rw [s2Window_mem, word_fill_range, if_pos h]

theorem s2Window_word_ne (s : State) {sp : RamSpace} (h : sp ≠ .fr) (k : Nat) :
    (s2Window s).mem.word sp k = s.mem.word sp k := by
  rw [s2Window_mem, word_fill_ne _ _ _ h]

@[simp] theorem s2Window_bank (s : State) (b : Bool) : (s2Window s).mem.bank b = s.mem.bank b := by
  rw [s2Window_mem, bank_fill]

theorem s2Window_wf {s : State} (h : s.mem.wf s.cfg) : (s2Window s).mem.wf s.cfg := by
  rw [s2Window_mem]; exact fill_wf h (by simp [spaceLen])

theorem s3Permute_word_ne (s : State) {sp : RamSpace} (h1 : sp ≠ .fr) (h2 : sp ≠ .fi) (k : Nat) :
    (s3Permute s).mem.word sp k = s.mem.word sp k := by
  rw [s3Permute_mem, word_fill_ne _ _ _ h2, word_fill_ne _ _ _ h1]

@[simp] theorem s3Permute_bank (s : State) (b : Bool) : (s3Permute s).mem.bank b = s.mem.bank b := by
  rw [s3Permute_mem, bank_fill, bank_fill]

theorem s3Permute_wf {s : State} (h : s.mem.wf s.cfg) : (s3Permute s).mem.wf s.cfg := by
  rw [s3Permute_mem]; exact fill_wf (fill_wf h (by simp [spaceLen, permuted])) (by simp [spaceLen, permuted])

@[simp] theorem butterfly_length (wr wi : Word) (a b : Nat) (x : ReIm) :
    (butterfly wr wi a b x).1.length = x.1.length ∧ (butterfly wr wi a b x).2.length = x.2.length := by
  simp [butterfly]

/-- A property that one step of a fold keeps holds of its end. -/
theorem foldl_keeps {α β : Type} (P : β → Prop) (g : β → α → β) (hg : ∀ y a, P y → P (g y a)) (l : List α) (y : β)
    (h : P y) : P (l.foldl g y) := by
  induction l generalizing y with
  | nil => exact h
  | cons a rest ih => exact ih _ (hg _ _ h)

theorem fftGroup_length (c : Config) (len j m : Nat) (x : ReIm) :
    (fftGroup c len j m x).1.length = x.1.length ∧ (fftGroup c len j m x).2.length = x.2.length :=
  foldl_keeps (fun y : ReIm => y.1.length = x.1.length ∧ y.2.length = x.2.length) _
    (fun y _ h => by simpa using h) _ _ ⟨rfl, rfl⟩

theorem fftStage_length (c : Config) (x : ReIm) (st : Nat) :
    (fftStage c x st).1.length = x.1.length ∧ (fftStage c x st).2.length = x.2.length :=
  foldl_keeps (fun y : ReIm => y.1.length = x.1.length ∧ y.2.length = x.2.length) _
    (fun y m h => by have := fftGroup_length c (2 ^ st) (m * 2 ^ (c.log2n - 1 - st)) m y; omega) _ _ ⟨rfl, rfl⟩

theorem fftRun_length (c : Config) (x : ReIm) :
    (fftRun c x).1.length = x.1.length ∧ (fftRun c x).2.length = x.2.length :=
  foldl_keeps (fun y : ReIm => y.1.length = x.1.length ∧ y.2.length = x.2.length) _
    (fun y st h => by have := fftStage_length c y st; omega) _ _ ⟨rfl, rfl⟩

theorem s4Butterflies_word_ne (s : State) {sp : RamSpace} (h1 : sp ≠ .fr) (h2 : sp ≠ .fi) (k : Nat) :
    (s4Butterflies s).mem.word sp k = s.mem.word sp k := by
  rw [s4Butterflies_mem, word_fill_ne _ _ _ h2, word_fill_ne _ _ _ h1]

@[simp] theorem s4Butterflies_bank (s : State) (b : Bool) : (s4Butterflies s).mem.bank b = s.mem.bank b := by
  rw [s4Butterflies_mem, bank_fill, bank_fill]

theorem s4Butterflies_wf {s : State} (h : s.mem.wf s.cfg) : (s4Butterflies s).mem.wf s.cfg := by
  have hl := fftRun_length s.cfg (s.mem.words .fr (bufLen s.cfg), s.mem.words .fi (bufLen s.cfg))
  simp only [words_length] at hl
  rw [s4Butterflies_mem]
  exact fill_wf (fill_wf h (by simp [spaceLen, hl])) (by simp [spaceLen, hl])

theorem s4Magnitude_word_fr (s : State) {k : Nat} (h : k < bufLen s.cfg) :
    (s4Magnitude s).mem.word .fr k = magnitude s.cfg (s.mem.word .fr k) (s.mem.word .fi k) := by
  rw [s4Magnitude_mem, word_fill_range, if_pos h]

theorem s4Magnitude_word_ne (s : State) {sp : RamSpace} (h : sp ≠ .fr) (k : Nat) :
    (s4Magnitude s).mem.word sp k = s.mem.word sp k := by
  rw [s4Magnitude_mem, word_fill_ne _ _ _ h]

@[simp] theorem s4Magnitude_bank (s : State) (b : Bool) : (s4Magnitude s).mem.bank b = s.mem.bank b := by
  rw [s4Magnitude_mem, bank_fill]

theorem s4Magnitude_wf {s : State} (h : s.mem.wf s.cfg) : (s4Magnitude s).mem.wf s.cfg := by
  rw [s4Magnitude_mem]; exact fill_wf h (by simp [spaceLen])

/-- Any values at 0 .. n − 1 are the values of an expression in `y`. -/
theorem magValue_row (g : Nat → Nat) (n : Nat) : ∃ e, ∀ x y, y < n → magValue x y e = g y := by
  induction n with
  | zero => exact ⟨.lit 0, fun _ _ h => absurd h (by omega)⟩
  | succ n ih =>
    obtain ⟨e, he⟩ := ih
    refine ⟨.ifLe (.lit n) .imAbs (.lit (g n)) e, fun x y h => ?_⟩
    rcases Nat.lt_succ_iff_lt_or_eq.mp h with h | rfl
    · simp [magValue, he x y h, Nat.not_le.mpr h]
    · simp [magValue]

/-- Any expressions for x = 0 .. n − 1 join into one. -/
theorem magValue_rows (r : Nat → MagExpr) (n : Nat) :
    ∃ e, ∀ x y, x < n → magValue x y e = magValue x y (r x) := by
  induction n with
  | zero => exact ⟨.lit 0, fun _ _ h => absurd h (by omega)⟩
  | succ n ih =>
    obtain ⟨e, he⟩ := ih
    refine ⟨.ifLe (.lit n) .reAbs (r n) e, fun x y h => ?_⟩
    rcases Nat.lt_succ_iff_lt_or_eq.mp h with h | rfl
    · simp [magValue, he x y h, Nat.not_le.mpr h]
    · simp [magValue]

/-- A function symmetric in the sign of its argument sees the absolute value alone. -/
theorem symmetric_natAbs {α : Type} (g : Word → α) (h : ∀ w, g (-w) = g w) (w : Word) :
    g w = g (BitVec.ofNat 32 (sext w).natAbs) := by
  rcases Int.natAbs_eq w.toInt with hw | hw
  · have : w = BitVec.ofNat 32 (sext w).natAbs := by
      rw [← BitVec.ofInt_natCast, sext, ← hw, BitVec.ofInt_toInt]
    rw [← this]
  · have : -w = BitVec.ofNat 32 (sext w).natAbs := by
      rw [← BitVec.ofInt_natCast, sext, show (w.toInt.natAbs : Int) = -w.toInt by omega, BitVec.ofInt_neg,
        BitVec.ofInt_toInt]
    rw [← this, h]

/-- Every function that meets R131's constraints is the MAG of some configuration, so MAG is an argument like the
other parameters of R8. -/
theorem magnitude_of_any (f : Word → Word → Word) (hpos : ∀ re im, 0 ≤ sext (f re im))
    (hre : ∀ re im, f (-re) im = f re im) (him : ∀ re im, f re (-im) = f re im) :
    ∃ body, ∀ c : Config, c.mag = .replacement body → ∀ re im, magnitude c re im = f re im := by
  choose r hr using fun x => magValue_row (fun y => (f (BitVec.ofNat 32 x) (BitVec.ofNat 32 y)).toNat) (2 ^ 31 + 1)
  obtain ⟨e, he⟩ := magValue_rows r (2 ^ 31 + 1)
  have habs (w : Word) : (sext w).natAbs < 2 ^ 31 + 1 := by
    have h1 := w.two_mul_toInt_lt
    have h2 := w.le_two_mul_toInt
    unfold sext; omega
  refine ⟨e, fun c hc re im => ?_⟩
  have hf : f re im = f (BitVec.ofNat 32 (sext re).natAbs) (BitVec.ofNat 32 (sext im).natAbs) := by
    rw [symmetric_natAbs (fun w => f w im) (fun w => hre w im), symmetric_natAbs (f _) (him _)]
  have hlt : (f re im).toNat < 2 ^ 31 := by
    have := hpos re im
    simp only [sext, BitVec.toInt_eq_toNat_cond] at this
    omega
  rw [magnitude, hc]
  simp only
  rw [he _ _ (habs re), hr _ _ _ (habs im), ← hf, Nat.mod_eq_of_lt hlt, wrap32, BitVec.ofInt_natCast,
    BitVec.ofNat_toNat, BitVec.setWidth_eq]

/-- The bin the scan finds is 0 or one it visited. -/
theorem findPeak_bin_lt (c : Config) (g : Nat → Int) (h : 4 ≤ bufLen c) : (findPeak c g).2 < bufLen c / 2 := by
  unfold findPeak
  have : ∀ (l : List Nat) (acc : Int × Nat), (∀ k ∈ l, k < bufLen c / 2) → acc.2 < bufLen c / 2 →
      (l.foldl (peakStep g) acc).2 < bufLen c / 2 := by
    intro l
    induction l with
    | nil => intro acc _ h; exact h
    | cons a rest ih =>
      intro acc hl hacc
      refine ih _ (fun k hk => hl k (by simp [hk])) ?_
      unfold peakStep
      split_ifs
      · exact hl a (by simp)
      · exact hacc
  refine this _ _ (fun k hk => ?_) (by simp; omega)
  rw [List.mem_range'_1] at hk
  omega

/-! ## The pass -/

/-- Stages S1 to S5 write READY, SAMPERR, ERRCNT, DCMAG, PEAKBIN, PEAKMAG and memory, nothing else. -/
theorem passToPeak_frame (s : State) : passToPeak s = { s with
    mem := (passToPeak s).mem, ready := false, errcnt := (s1Ingest s).errcnt, samperr := (s1Ingest s).samperr,
    dcmag := (passToPeak s).dcmag, peakbin := (passToPeak s).peakbin, peakmag := (passToPeak s).peakmag } := rfl

theorem passToPeak_word_ne (s : State) {sp : RamSpace} (h1 : sp ≠ .fr) (h2 : sp ≠ .fi) (k : Nat) :
    (passToPeak s).mem.word sp k = s.mem.word sp k := by
  show (s4Magnitude (s4Butterflies (s3Permute (s2Window (s1Ingest s))))).mem.word sp k = _
  rw [s4Magnitude_word_ne _ h1, s4Butterflies_word_ne _ h1 h2, s3Permute_word_ne _ h1 h2, s2Window_word_ne _ h1,
    s1Ingest_word_ne _ h1 h2]

theorem passToPeak_bank (s : State) (b : Bool) : (passToPeak s).mem.bank b = (s1Ingest s).mem.bank b := by
  show (s4Magnitude (s4Butterflies (s3Permute (s2Window (s1Ingest s))))).mem.bank b = _
  simp

theorem passToPeak_wf {s : State} (h : s.mem.wf s.cfg) : (passToPeak s).mem.wf s.cfg :=
  s4Magnitude_wf (s := s4Butterflies (s3Permute (s2Window (s1Ingest s)))) <|
    s4Butterflies_wf (s := s3Permute (s2Window (s1Ingest s))) <|
      s3Permute_wf (s := s2Window (s1Ingest s)) <| s2Window_wf (s := s1Ingest s) <| s1Ingest_wf h

/-- Everything ESTIMATE can do: no buffer, low signal, DIVZ in stage S7, a frequency, or the fault of a smoother whose
counts are out of range. -/
theorem exec_estimate_cases (s : State) :
    (s.ready = false ∧ exec .estimate s = .next { s with resl := noData, rkind := rkindNoData }) ∨
    (s.ready = true ∧
      ((sext (passToPeak s).peakmag < s.cfg.noiseFloor ∧
        exec .estimate s = .next { passToPeak s with est := lowSig, resl := lowSig, rkind := rkindLowSig }) ∨
       ((s.cfg.noiseFloor : Int) ≤ sext (passToPeak s).peakmag ∧ s7Interp (passToPeak s) = none ∧
        exec .estimate s = .next (raise .divz (passToPeak s))) ∨
       ((s.cfg.noiseFloor : Int) ≤ sext (passToPeak s).peakmag ∧ ∃ f, s7Interp (passToPeak s) = some f ∧
        ((∃ u, smooth f { passToPeak s with est := f } = .ok u ∧
            exec .estimate s = .next { u with resl := u.ravg, rkind := rkindFreq }) ∨
         (∃ e, smooth f { passToPeak s with est := f } = .error e ∧ exec .estimate s = .fault e))))) := by
  show (_ ∧ execEstimate s = _) ∨ (_ ∧ ((_ ∧ execEstimate s = _) ∨ (_ ∧ _ ∧ execEstimate s = _) ∨
    (_ ∧ ∃ f, _ ∧ ((∃ u, _ ∧ execEstimate s = _) ∨ (∃ e, _ ∧ execEstimate s = _)))))
  unfold execEstimate
  by_cases hr : s.ready = false
  · exact .inl ⟨hr, if_pos hr⟩
  · refine .inr ⟨by simpa using hr, ?_⟩
    rw [if_neg hr]
    have hcfg : (passToPeak s).cfg = s.cfg := passToPeak_cfg s
    generalize passToPeak s = p at *
    by_cases hl : sext p.peakmag < s.cfg.noiseFloor
    · exact .inl ⟨hl, if_pos (by rw [hcfg]; exact hl)⟩
    · have hge : (s.cfg.noiseFloor : Int) ≤ sext p.peakmag := by omega
      have hl' : ¬sext p.peakmag < p.cfg.noiseFloor := by rw [hcfg]; exact hl
      refine .inr ?_
      cases h7 : s7Interp p with
      | none => exact .inl ⟨hge, rfl, by simp only [if_neg hl', h7]⟩
      | some f =>
        refine .inr ⟨hge, f, rfl, ?_⟩
        cases hs : smooth f { p with est := f } with
        | ok u => exact .inl ⟨u, rfl, by simp only [if_neg hl', h7]; rw [hs]⟩
        | error e => exact .inr ⟨e, rfl, by simp only [if_neg hl', h7]; rw [hs]⟩

end Sys2Proof.Machine
end

