-- ==== Sys2Proof/Laws/NoteMapper.lean ====
section
/-!
SUPPORT. The note mapper: what the scan finds, everything MAPFREQ can do, and what SETREF writes.
-/
namespace Sys2Proof.Machine

/-- The scan finds nothing exactly when no entry exceeds the input. -/
theorem firstAbove_eq_none {s : State} {f : Word} :
    firstAbove s f = none ↔ ∀ k < lutLen s.cfg, sext (s.mem.word .lut k) ≤ sext f := by
  simp [firstAbove, Memory.words]

/-- The scan finds the least index whose entry exceeds the input. -/
theorem firstAbove_eq_some {s : State} {f : Word} {i : Nat} :
    firstAbove s f = some i ↔
      i < lutLen s.cfg ∧ sext f < sext (s.mem.word .lut i) ∧ ∀ k < i, sext (s.mem.word .lut k) ≤ sext f := by
  unfold firstAbove
  rw [List.findIdx?_eq_some_iff_getElem]
  simp only [Memory.words, List.length_map, List.length_range, List.getElem_map, List.getElem_range,
    decide_eq_true_eq, not_lt]
  exact ⟨fun ⟨h, h1, h2⟩ => ⟨h, h1, fun k hk => h2 k hk⟩, fun ⟨h, h1, h2⟩ => ⟨h, h1, fun k hk => h2 k hk⟩⟩

/-- Everything the choice of a neighbour can do: a zero log-width, the lower note, or the upper one. -/
theorem mapInBracket_cases (f lower upper : Word) (j : Nat) :
    (log2Fix upper = log2Fix lower ∧ mapInBracket f lower upper j = none) ∨
    (log2Fix upper ≠ log2Fix lower ∧ ∃ fl fu,
      fxdiv (wrap32 (sext (log2Fix f) - sext (log2Fix lower)))
        (wrap32 (sext (log2Fix upper) - sext (log2Fix lower))) = some fl ∧
      fxdiv (wrap32 (sext (log2Fix upper) - sext (log2Fix f)))
        (wrap32 (sext (log2Fix upper) - sext (log2Fix lower))) = some fu ∧
      ((sext fl ≤ sext fu ∧ mapInBracket f lower upper j = some (j, wrap32 (centsOf fl))) ∨
       (sext fu < sext fl ∧ mapInBracket f lower upper j = some (j + 1, wrap32 (-centsOf fu))))) := by
  unfold mapInBracket
  by_cases h : log2Fix upper = log2Fix lower
  · refine .inl ⟨h, ?_⟩
    simp only [fxdiv_eq_none.2 (wrap32_sub_eq_zero.2 h)]
  · have hs : wrap32 (sext (log2Fix upper) - sext (log2Fix lower)) ≠ 0 := fun h0 => h (wrap32_sub_eq_zero.1 h0)
    refine .inr ⟨h, _, _, fxdiv_of_ne hs, fxdiv_of_ne hs, ?_⟩
    simp only [fxdiv_of_ne hs]
    split_ifs with hc
    · exact .inl ⟨hc, rfl⟩
    · exact .inr ⟨by omega, rfl⟩

/-- Everything MAPFREQ can do: out of range, a zero log-width, or a note. -/
theorem exec_mapfreq_cases (s : State) :
    (exec .mapfreq s = .next { s with maprange := true } ∧
      (firstAbove s s.opa = none ∨ firstAbove s s.opa = some 0 ∨
        ∃ j, firstAbove s s.opa = some (j + 1) ∧ sext (s.mem.word .lut j) ≤ 0)) ∨
    (∃ j, firstAbove s s.opa = some (j + 1) ∧ 0 < sext (s.mem.word .lut j) ∧
      ((mapInBracket s.opa (s.mem.word .lut j) (s.mem.word .lut (j + 1)) j = none ∧
          exec .mapfreq s = .next (raise .divz s)) ∨
       ∃ n c, mapInBracket s.opa (s.mem.word .lut j) (s.mem.word .lut (j + 1)) j = some (n, c) ∧
          exec .mapfreq s = .next { s with note := BitVec.ofNat 32 n, cents := c, maprange := false })) := by
  show (execMapfreq s = _ ∧ _) ∨ (∃ j, _ ∧ _ ∧ ((_ ∧ execMapfreq s = _) ∨ ∃ n c, _ ∧ execMapfreq s = _))
  unfold execMapfreq opaFix
  cases hf : firstAbove s s.opa with
  | none => exact .inl ⟨rfl, .inl rfl⟩
  | some i =>
    cases i with
    | zero => exact .inl ⟨rfl, .inr (.inl rfl)⟩
    | succ j =>
      by_cases hp : sext (s.mem.word .lut j) ≤ 0
      · exact .inl ⟨by simp only [if_pos hp], .inr (.inr ⟨j, rfl, hp⟩)⟩
      · refine .inr ⟨j, rfl, by omega, ?_⟩
        simp only [if_neg hp]
        cases hm : mapInBracket s.opa (s.mem.word .lut j) (s.mem.word .lut (j + 1)) j with
        | none => exact .inl ⟨rfl, rfl⟩
        | some p => exact .inr ⟨p.1, p.2, rfl, rfl⟩

theorem exec_setref (s : State) : exec .setref s =
    .next { s with mem := s.mem.fill .lut ((List.range (lutLen s.cfg)).map (lutEntry s.opa.toNat)) } := rfl

/-- The words SETREF leaves. -/
theorem setref_word (s : State) (ref : Nat) (sp : RamSpace) (k : Nat) :
    (s.mem.fill .lut ((List.range (lutLen s.cfg)).map (lutEntry ref))).word sp k =
      if sp = .lut then (if k < lutLen s.cfg then lutEntry ref k else 0) else s.mem.word sp k := by
  by_cases h : sp = .lut
  · subst h; rw [word_fill_range, if_pos rfl]
  · rw [word_fill_ne _ _ _ h, if_neg h]

theorem setref_wf {s : State} (ref : Nat) (h : s.mem.wf s.cfg) :
    (s.mem.fill .lut ((List.range (lutLen s.cfg)).map (lutEntry ref))).wf s.cfg :=
  fill_wf h (by simp [spaceLen])

end Sys2Proof.Machine
end

