-- ==== Sys2Proof/Laws/PerInstr.lean ====
section
/-!
SUPPORT. Families of statements made per command: for each constructor of `Instr` one lemma.
-/
namespace Sys2Proof.Laws

/-- A command is well formed, its word is its opcode zero-extended (30_encoding.md R81), and the decoder reads the command
back from that word. -/
def CommandWord.Statement (i : Instr) : Prop :=
  i.wf = true ∧ encode i = (opcodeOf i).zeroExtend 32 ∧ decode (encode i) = .ok i

theorem CommandWord.fxmul : CommandWord.Statement .fxmul := ⟨rfl, rfl, rfl⟩
theorem CommandWord.fxdiv : CommandWord.Statement .fxdiv := ⟨rfl, rfl, rfl⟩
theorem CommandWord.i2fx : CommandWord.Statement .i2fx := ⟨rfl, rfl, rfl⟩
theorem CommandWord.fx2f : CommandWord.Statement .fx2f := ⟨rfl, rfl, rfl⟩
theorem CommandWord.estimate : CommandWord.Statement .estimate := ⟨rfl, rfl, rfl⟩
theorem CommandWord.mapfreq : CommandWord.Statement .mapfreq := ⟨rfl, rfl, rfl⟩
theorem CommandWord.setref : CommandWord.Statement .setref := ⟨rfl, rfl, rfl⟩
theorem CommandWord.setbeat : CommandWord.Statement .setbeat := ⟨rfl, rfl, rfl⟩

end Sys2Proof.Laws
end

