-- ==== Sys2Proof/Laws/Port.lean ====
section
/-!
SUPPORT. The step: what each event runs, and what the whole run of `Host.Core` is in terms of it.
-/
namespace Sys2Proof.Machine

/-! ## Fetching the next event -/

theorem step_idle {s : State} (h : s.events = []) : step s = .next s := by
  simp only [step, stepEvent, h]

theorem step_event {s : State} {e : Event} {rest : List Event} (h : s.events = e :: rest) :
    step s = runEvent e { s with events := rest } := by
  simp only [step, stepEvent, h]

@[simp] theorem run_zero (s : State) : Sys2Proof.core.run 0 s = .next s := rfl

theorem run_of_next (M : Host.Core) (n : Nat) {s t : M.State} (h : M.step s = .next t) :
    M.run (n + 1) s = M.run n t := by
  simp only [Host.Core.run, h]

theorem core_run_of_next {s t : State} (n : Nat) (h : step s = .next t) :
    Sys2Proof.core.run (n + 1) s = Sys2Proof.core.run n t := run_of_next Sys2Proof.core n h

/-! ## The events -/

@[simp] theorem runEvent_reset (s : State) : runEvent .reset s = .next (resetEvent s) := rfl

@[simp] theorem runEvent_hostRead (r : Nat) (s : State) :
    runEvent (.hostRead r) s = .next { s with reads := portRead s r :: s.reads } := rfl

@[simp] theorem runEvent_acqDone (s : State) : runEvent .acqDone s = .next { s with back := !s.back, ready := true } :=
  rfl

@[simp] theorem runEvent_tick (s : State) : runEvent .tick s = tickEvent s := rfl

/-- Everything AcqWrite can do. -/
theorem runEvent_acqWrite (k : Nat) (w : Sample) (s : State) :
    (k < bufLen s.cfg ∧ runEvent (.acqWrite k w) s =
      .next { s with mem := s.mem.setBank (!s.back) (memInsert (s.mem.bank (!s.back)) k w) }) ∨
    (bufLen s.cfg ≤ k ∧ runEvent (.acqWrite k w) s = .next s) := by
  show (_ ∧ acqWriteEvent k w s = _) ∨ (_ ∧ acqWriteEvent k w s = _)
  unfold acqWriteEvent
  by_cases h : k < bufLen s.cfg
  · exact .inl ⟨h, if_pos h⟩
  · exact .inr ⟨by omega, if_neg h⟩

theorem regOfNumber_some {r : Nat} {reg : RegName} : regOfNumber r = some reg ↔ r = regNumber reg := by
  constructor
  · intro h
    unfold regOfNumber at h
    split at h <;> first | (obtain rfl := Option.some.inj h; rfl) | cases h
  · rintro rfl; cases reg <;> rfl

/-- Everything HostWrite can do: nothing while halted, a command at 0, an operand at 2 or 3, nothing elsewhere. -/
theorem runEvent_hostWrite (r : Nat) (v : Word) (s : State) :
    (s.fatal = true ∧ runEvent (.hostWrite r v) s = .next s) ∨
    (s.fatal = false ∧
      ((r = 0 ∧ runEvent (.hostWrite r v) s = issueCommand v s) ∨
       (r = 2 ∧ runEvent (.hostWrite r v) s = .next { s with opa := v }) ∨
       (r = 3 ∧ runEvent (.hostWrite r v) s = .next { s with opb := v }) ∨
       (r ≠ 0 ∧ r ≠ 2 ∧ r ≠ 3 ∧ runEvent (.hostWrite r v) s = .next s))) := by
  show (_ ∧ hostWriteEvent r v s = _) ∨ (_ ∧ ((_ ∧ hostWriteEvent r v s = _) ∨ (_ ∧ hostWriteEvent r v s = _) ∨
    (_ ∧ hostWriteEvent r v s = _) ∨ (_ ∧ _ ∧ _ ∧ hostWriteEvent r v s = _)))
  unfold hostWriteEvent
  by_cases h : s.fatal = true
  · exact .inl ⟨h, if_pos h⟩
  · refine .inr ⟨by simpa using h, ?_⟩
    rw [if_neg h]
    by_cases h0 : r = 0
    · exact .inl ⟨h0, by rw [h0]; rfl⟩
    by_cases h2 : r = 2
    · exact .inr (.inl ⟨h2, by rw [h2]; rfl⟩)
    by_cases h3 : r = 3
    · exact .inr (.inr (.inl ⟨h3, by rw [h3]; rfl⟩))
    refine .inr (.inr (.inr ⟨h0, h2, h3, ?_⟩))
    cases hr : regOfNumber r with
    | none => rfl
    | some reg =>
      have hn := regOfNumber_some.1 hr
      cases reg
      · exact absurd hn h0
      · rfl
      · exact absurd hn h2
      · exact absurd hn h3
      all_goals rfl

/-- Everything a word written to CMD can do. -/
theorem issueCommand_cases (v : Word) (s : State) :
    (∃ i, decode v = .ok i ∧ issueCommand v s = exec i s) ∨
    ((∀ i, decode v ≠ .ok i) ∧ issueCommand v s = .next (raise .illCmd s)) := by
  unfold issueCommand
  cases h : decode v with
  | ok i => exact .inl ⟨i, rfl, rfl⟩
  | error e => exact .inr ⟨(fun i hi => nomatch hi), rfl⟩

/-! ## Commands and the bank in front -/

/-- No command gives a refusal, and only ESTIMATE can give a fault of the model. -/
theorem exec_next_of_ne {i : Instr} (h : i ≠ .estimate) (s : State) : ∃ t, exec i s = .next t := by
  cases i with
  | fxmul => exact ⟨_, rfl⟩
  | fxdiv =>
    rcases exec_fxdiv_cases s with ⟨_, h'⟩ | ⟨_, _, _, h'⟩
    · exact ⟨_, h'⟩
    · exact ⟨_, h'⟩
  | i2fx => exact ⟨_, rfl⟩
  | fx2f => exact ⟨_, rfl⟩
  | estimate => exact absurd rfl h
  | mapfreq =>
    rcases exec_mapfreq_cases s with ⟨h', _⟩ | ⟨_, _, _, ⟨_, h'⟩ | ⟨_, _, _, h'⟩⟩
    · exact ⟨_, h'⟩
    · exact ⟨_, h'⟩
    · exact ⟨_, h'⟩
  | setref => exact ⟨_, rfl⟩
  | setbeat =>
    rcases exec_setbeat_cases s with ⟨_, h'⟩ | ⟨_, h'⟩ | ⟨_, _, h'⟩
    · exact ⟨_, h'⟩
    · exact ⟨_, h'⟩
    · exact ⟨_, h'⟩

/-- ESTIMATE completes when the counts of the smoother are in range. -/
theorem exec_estimate_completes {s : State} (h1 : s.outcnt < s.cfg.outlierThresh)
    (h2 : s.cursor < s.cfg.rollingItems) : ∃ t, exec .estimate s = .next t := by
  rcases exec_estimate_cases s with ⟨_, h⟩ | ⟨_, ⟨_, h⟩ | ⟨_, _, h⟩ | ⟨_, f, _, ⟨u, _, h⟩ | ⟨e, he, _⟩⟩⟩
  · exact ⟨_, h⟩
  · exact ⟨_, h⟩
  · exact ⟨_, h⟩
  · exact ⟨_, h⟩
  · obtain ⟨t, ht⟩ := smooth_completes f (s := { passToPeak s with est := f }) (by simpa using h1) (by simpa using h2)
    rw [ht] at he; cases he

/-- A written sample word reads back, and no other word of the bank changes. -/
theorem bankWord_acqWrite (s : State) (k : Nat) (w : Sample) (b : Bool) (i : Nat) :
    bankWord { s with mem := s.mem.setBank (!s.back) (memInsert (s.mem.bank (!s.back)) k w) } b i =
      if b = (!s.back) ∧ i = k then w else bankWord s b i := by
  unfold bankWord
  by_cases hb : b = (!s.back)
  · subst hb
    simp only [bank_setBank_self, memFind_insert]
    split_ifs <;> simp_all
  · simp only [bank_setBank_ne _ _ hb, hb, false_and, if_false]

end Sys2Proof.Machine
end

