-- ==== Sys2Proof/Tests/Slice0.lean ====
section
/-!
SUPPORT. The model's own tests. Expected values are the spec's: the examples of its rules and the rows of
95_test_vectors.md, named beside each test.
-/

open Sys2Proof Sys2Proof.Machine

set_option Elab.async false

/-! ## Helpers -/

/-- The next state of an outcome, if it is one. -/
def nextOf : Host.Outcome State Fault Refusal → Option State
  | .next s => some s
  | .fault _ => none
  | .refused _ => none

/-- The state after one step that writes the word `w` to CMD. -/
def afterCmd (w : Nat) (s : State) : Option State := nextOf (step (s.withFetchWord 32 w))

/-- The state after one step that is the event `e`. -/
def afterEvent (e : Event) (s : State) : Option State := nextOf (step (withEvents [e] s))

/-- The unit after reset with two operands written. -/
def withOps (a b : Word) : State := { State.reset with opa := a, opb := b }

/-- A bank that lists the words of `ws` from index 0. -/
def bankOf (ws : List Sample) : Mem 16 := ws.zipIdx.map fun p => (p.2, p.1)

/-- The unit after reset with the words of `ws` handed over in BANK1. -/
def withBuffer (c : Config) (ws : List Sample) : State :=
  { State.reset with cfg := c, ready := true, mem := { Memory.empty with bank1 := bankOf ws } }

/-- The unit after reset whose LUT holds the words of `ws`. -/
def withLut (ws : List Word) : State := { State.reset with mem := Memory.empty.fill .lut ws }

/-- The table SETREF builds for 440 (43_note_mapper.md R177). -/
def lut440 : List Word := (List.range 96).map (lutEntry 440)

/-- A small configuration, N = 8; SINE is R41's formula at N = 8. -/
def cfg8 : Config := { refConfig with
  log2n := 3
  sampleRateHz := 8000
  sine := [0, 23170, 32768, 23170, 0, -23170, -32768, -23170] }

/-- Eight samples with a spectral peak at bin 3. -/
def wave8 : List Sample := [500, 147, 1000, 147, 500, 853, 0, 853]

/-- The 64 samples of vector V-E1. -/
def waveE1 : List Sample :=
  (List.replicate 8 [0x0800, 0x0AC3, 0x0BE8, 0x0AC3, 0x0800, 0x053D, 0x0418, 0x053D]).flatten

/-! ## WellFormed: one ill-formed configuration for each check -/

theorem test_wf_accepts_reference : refConfig.wf := by decide +kernel
theorem test_wf_accepts_small : cfg8.wf := by decide +kernel
theorem test_wf_refuses_log2n_low : ¬Config.wf { refConfig with log2n := 1 } := by decide +kernel
theorem test_wf_refuses_log2n_high : ¬Config.wf { refConfig with log2n := 16 } := fun h => absurd h.1.1.2 (by decide)
theorem test_wf_refuses_rate_zero : ¬Config.wf { refConfig with sampleRateHz := 0 } := by decide +kernel
theorem test_wf_refuses_rate_high : ¬Config.wf { refConfig with sampleRateHz := 131072 } := by decide +kernel
theorem test_wf_refuses_adc_bits : ¬Config.wf { refConfig with adcBits := 16 } := by decide +kernel
theorem test_wf_refuses_floor_zero : ¬Config.wf { refConfig with noiseFloor := 0 } := by decide +kernel
theorem test_wf_refuses_floor_high : ¬Config.wf { refConfig with noiseFloor := 2 ^ 31 } := by decide +kernel
theorem test_wf_refuses_no_items : ¬Config.wf { refConfig with rollingItems := 0 } := by decide +kernel
theorem test_wf_refuses_threshold_zero : ¬Config.wf { refConfig with outlierThresh := 0 } := by decide +kernel
theorem test_wf_refuses_threshold_high : ¬Config.wf { refConfig with outlierThresh := 9 } := by decide +kernel
theorem test_wf_refuses_octaves : ¬Config.wf { refConfig with numOctaves := 4 } := by decide +kernel
theorem test_wf_refuses_tone_long : ¬Config.wf { refConfig with toneMs := 50 } := by decide +kernel
theorem test_wf_refuses_sine_length : ¬Config.wf { refConfig with sine := sineRom64.take 63 } := by decide +kernel
theorem test_wf_refuses_sine_phase : ¬Config.wf { refConfig with sine := sineRom64.rotate 1 } := by decide +kernel
theorem test_wf_refuses_sine_asymmetric : ¬Config.wf { refConfig with sine := sineRom64.set 5 15448 } := by
  decide +kernel
theorem test_wf_refuses_split_triplet : ¬Config.wf { refConfig with
    pattern := defaultPattern.set 13 [.high, .low, .low] } := by decide +kernel
theorem test_wf_refuses_empty_row : ¬Config.wf { refConfig with pattern := defaultPattern.set 1 [] } := by
  decide +kernel
theorem test_wf_refuses_row_length : ¬Config.wf { refConfig with pattern := defaultPattern.set 11 [.high] } := by
  decide +kernel

/-- R47 sets no bound on the length of a counting row (log entry 12). -/
theorem test_wf_accepts_long_row : Config.wf { refConfig with pattern := defaultPattern.set 10 (accented 11) } := by
  decide +kernel

/-! ## Decoding: the words of the table in 30_encoding.md section 3, written out bit by bit -/

theorem test_decode_fxmul : decodeTableWord 32 0b00000000000000000000000000010000 = some .fxmul := by decide
theorem test_decode_fxdiv : decodeTableWord 32 0b00000000000000000000000000010001 = some .fxdiv := by decide
theorem test_decode_i2fx : decodeTableWord 32 0b00000000000000000000000000010010 = some .i2fx := by decide
theorem test_decode_fx2f : decodeTableWord 32 0b00000000000000000000000000010011 = some .fx2f := by decide
theorem test_decode_estimate : decodeTableWord 32 0b00000000000000000000000000100000 = some .estimate := by decide
theorem test_decode_mapfreq : decodeTableWord 32 0b00000000000000000000000000110000 = some .mapfreq := by decide
theorem test_decode_setref : decodeTableWord 32 0b00000000000000000000000000110001 = some .setref := by decide
theorem test_decode_setbeat : decodeTableWord 32 0b00000000000000000000000001000000 = some .setbeat := by decide

/-- R87: an all-zero word, 0xFF, an unlisted opcode, and a listed opcode with one reserved bit set. -/
theorem test_decode_refuses : decode 0 = .error (.unlistedOpcode 0) ∧ decode 0xFF = .error (.unlistedOpcode 0xFF) ∧
    decode 0x14 = .error (.unlistedOpcode 0x14) ∧ decode 0x110 = .error .reservedBits ∧
    decode 0x80000010 = .error .reservedBits := ⟨rfl, rfl, rfl, rfl, rfl⟩

/-! ## The commands -/

/-- R100, the rule's example; R101, raw −1 times raw 1. -/
theorem test_fxmul_example : (afterCmd 0x10 (withOps 0x00018000 0x00010000)).map (·.resl) = some 0x00030000 := by
  decide +kernel
theorem test_fxmul_floors : (afterCmd 0x10 (withOps 0xFFFFFFFF 1)).map (·.resl) = some 0xFFFFFFFF := by
  decide +kernel

/-- V-K2, −1/3 rounds toward zero; R105, 0 / 0 halts with FCODE 1 and leaves RESL. -/
theorem test_fxdiv_truncates : (afterCmd 0x11 (withOps 0xFFFF8000 0x00018000)).map (·.resl) = some 0xFFFFD556 := by
  decide +kernel
theorem test_fxdiv_by_zero : (afterCmd 0x11 { withOps 0 0 with resl := 7 }).map (fun t => (t.fatal, t.fcode, t.resl)) =
    some (true, 1, 7) := by decide +kernel

/-- R106, the rule's example; R107, −65537 wraps. -/
theorem test_i2fx_example : (afterCmd 0x12 (withOps 0x000001B8 0)).map (·.resl) = some 0x00DC0000 := by decide +kernel
theorem test_i2fx_wraps : (afterCmd 0x12 (withOps 0xFFFEFFFF 0)).map (·.resl) = some 0x7FFF8000 := by decide +kernel

/-- R108, the rule's example; R110, the most negative Fix. -/
theorem test_fx2f_example : (afterCmd 0x13 (withOps 0x0000C000 0)).map (fun t => (t.resh, t.resl)) =
    some (0x3FF80000, 0x00000000) := by decide +kernel
theorem test_fx2f_lowest : (afterCmd 0x13 (withOps 0x80000000 0)).map (fun t => (t.resh, t.resl)) =
    some (0xC0F00000, 0x00000000) := by decide +kernel

/-- V-E1: bin 8 of 64 at 1760 Hz is exactly 220.0; the first estimate is stashed and 0 returned. -/
theorem test_estimate_sine : (afterCmd 0x20 (withBuffer refConfig waveE1)).map
    (fun t => (t.est, t.resl, t.rkind, t.peakbin, t.peakmag, t.mem.word .side 0)) =
    some (0x006E0000, 0, 2, 8, 0x007CFCD5, 0x006E0000) := by decide +kernel
/-- Eight samples with a peak at bin 3, two of them flagged, under a noise floor one unit above the peak: low signal. The
peak comes from a transcription of the pseudocode of 41_estimate.md outside Lean. -/
theorem test_estimate_low_signal : (afterCmd 0x20 (withBuffer { cfg8 with noiseFloor := 4092753 }
      [0x81F4, 147, 1000, 147, 500, 0x8355, 0, 853])).map
    (fun t => (t.resl, t.rkind, t.errcnt, t.mem.bank1)) = some (0xFFFF8000, 1, 2, bankOf wave8) := by decide +kernel

/-- V-M4, 435.0 Hz is 20 cents below A4; R181, the sentinel −1.0 is out of range and leaves NOTE and CENTS. -/
theorem test_mapfreq_flat : (afterCmd 0x30 { withLut lut440 with opa := 0x00D98000 }).map
    (fun t => (t.note, t.cents, t.maprange)) = some (57, 0xFFFFFFEC, false) := by decide +kernel
theorem test_mapfreq_out_of_range : (afterCmd 0x30 { withLut lut440 with opa := 0xFFFF8000, note := 3, cents := 4 }).map
    (fun t => (t.note, t.cents, t.maprange)) = some (3, 4, true) := by decide +kernel

/-- R175, the words the rule gives; V-M2, the largest ascending reference and the wrap above it. -/
theorem test_setref_440 : (afterCmd 0x31 (withOps 440 0)).map (fun t => [0, 45, 57, 95].map (t.mem.word .lut)) =
    some [0x00082D01, 0x006E0000, 0x00DC0000, 0x07B78880] := by decide +kernel
theorem test_setref_limit : (lutEntry 7298 95, lutEntry 7299 95) = (0x7FFEE980, 0x800366E7) := by decide +kernel

/-- R194, the rule's example; R203, selector 16 halts with FCODE 2 before anything changes. -/
theorem test_setbeat_eighth : (afterCmd 0x40 (withOps 60 11)).map
    (fun t => (t.interval, t.beatCnt, t.beatArmed, t.beatsel, statusWord t)) = some (500, 500, true, 11, 0x00004002) := by
  decide +kernel
theorem test_setbeat_bad_selector : (afterCmd 0x40 { withOps 60 16 with interval := 7, beatsel := 3 }).map
    (fun t => (t.fatal, t.fcode, t.interval, t.beatsel)) = some (true, 2, 7, 3) := by decide +kernel

/-- R87: an illegal word halts with FCODE 3. -/
theorem test_illegal_word : (afterCmd 0x21 State.reset).map (fun t => (t.fatal, t.fcode)) = some (true, 3) := by
  decide +kernel

/-! ## The events -/

/-- R205, Tick 500 of the EIGHTH timeline: high tone, 25 ms, clock reloaded. -/
theorem test_tick_fires : (afterEvent .tick { State.reset with
    beatArmed := true, beatsel := 11, interval := 500, beatCnt := 1 }).map
    (fun t => (t.toneOn, t.toneHigh, t.toffCnt, t.toffArmed, t.subbeat, t.beatCnt)) =
    some (true, true, 25, true, 1, 500) := by decide +kernel
/-- R205, Tick 525: the tone ends. -/
theorem test_tick_tone_off : (afterEvent .tick { State.reset with
    beatArmed := true, beatsel := 11, interval := 500, beatCnt := 476, toneOn := true, toneHigh := true, toffArmed := true,
    toffCnt := 1 }).map (fun t => (t.toneOn, t.toffArmed, t.toneHigh, t.beatCnt)) = some (false, false, true, 475) := by
  decide +kernel
/-- R70 and V-E1: after the first AcqDone STATUS is 1. -/
theorem test_acq_done : (afterEvent .acqDone State.reset).map statusWord = some 0x00000001 := by decide +kernel
/-- R68: the first AcqWrite after reset goes to BANK0. -/
theorem test_acq_write : (afterEvent (.acqWrite 3 0x8005) State.reset).map (·.mem.bank0) = some [(3, 0x8005)] := by
  decide +kernel
/-- R28: STATUS reads 2 after reset; R35: numbers above 16 read 0. -/
theorem test_host_read : (afterEvent (.hostRead 1) State.reset).map (·.reads) = some [2] ∧
    (afterEvent (.hostRead 17) State.reset).map (·.reads) = some [0] := by decide +kernel
/-- R35: a write to RESL is ignored. -/
theorem test_host_write_ignored : afterEvent (.hostWrite 4 7) State.reset = some State.reset := by decide +kernel
/-- R240 from a halted unit. -/
theorem test_reset_unhalts : afterEvent .reset (raise .divz { withOps 1 2 with ready := true }) =
    some { State.reset with resets := 1 } := by decide +kernel

/-- R131: the largest component plus half of the smaller, the cheaper estimate the rule speaks of, as a replaced MAG. -/
theorem test_replaced_mag : magnitude { refConfig with mag := .replacement (.ifLe .imAbs .reAbs
    (.add .reAbs (.div .imAbs (.lit 2))) (.add .imAbs (.div .reAbs (.lit 2)))) } 0xFFFFFFFA 9 = 12 := by decide +kernel

/-- Memory operations keep the canonical form: writing 0 unlists a word. -/
theorem test_ram_canonical : ramWrite (ramWrite (ramWrite [] 5 1) 2 7) 5 0 = [(2, 7)] := by decide

/-! ## Witnesses: for each statement with hypotheses, values that meet them all -/

/-- A unit whose beat clock is about to fire. -/
def beating : State := { State.reset with
  beatArmed := true, beatsel := 11, interval := 500, beatCnt := 1, events := [.tick] }

/-- A unit with a tone sounding. -/
def sounding : State := { State.reset with
  beatArmed := true, beatsel := 11, interval := 500, beatCnt := 476, subbeat := 1, toneOn := true, toneHigh := true,
  toffArmed := true, toffCnt := 1, events := [.tick] }

/-- A halted unit. -/
def halted (es : List Event) : State := { raise .divz (withOps 1 0) with events := es }

/-- A unit whose next event is the write of the word `v` to CMD. -/
def issuing (v : Word) : State := { withOps 60 11 with events := [.hostWrite 0 v, .tick] }

/-- A unit with a buffer and a noise floor. -/
def buffered (floor : Nat) : State := withBuffer { cfg8 with noiseFloor := floor } wave8

/-- A unit whose average is 220.0 and whose band is 154.003 to 285.997 (42_smoother.md R163). -/
def averaging : State := { State.reset with
  mem := Memory.empty.fill .hist [0x006E0000], ravg := 0x006E0000, rdev := 0x0020FFA8, cursor := 1 }

theorem inv_beating : Inv beating :=
  ⟨test_wf_accepts_reference, by decide +kernel, by decide +kernel, by decide +kernel, by decide +kernel⟩

theorem inv_sounding : Inv sounding :=
  ⟨test_wf_accepts_reference, by decide +kernel, by decide +kernel, by decide +kernel, by decide +kernel⟩

theorem inv_buffered : Inv (buffered 4092752) :=
  ⟨by decide +kernel, by decide +kernel, by decide +kernel, by decide +kernel, by decide +kernel⟩

theorem witness_StepRunsTheDecodedCommand : ∃ rest, (issuing 0x40).events = .hostWrite 0 0x40 :: rest ∧
    (issuing 0x40).fatal = false ∧ decode 0x40 = .ok .setbeat := ⟨[.tick], rfl, rfl, rfl⟩

/-- Halted; each command word; and, for the last clause, the words beside 0x10 and 0x40 and one with a reserved bit. -/
theorem witness_CmdWriteRunsOneOfEightOrFaults :
    (∀ v : Word, (issuing v).events = [.hostWrite 0 v, .tick] ∧ (issuing v).fatal = false ∧
      (halted [.hostWrite 0 v]).events = [.hostWrite 0 v] ∧ (halted [.hostWrite 0 v]).fatal = true) ∧
    (([0x0F, 0x14, 0x3F, 0x41, 0x100, 0x110] : List Word).all fun v =>
      ([0x10, 0x11, 0x12, 0x13, 0x20, 0x30, 0x31, 0x40] : List Word).all fun w => v != w) = true :=
  ⟨fun _ => ⟨rfl, rfl, rfl, rfl⟩, by decide +kernel⟩

/-- Products at both ends of the range, and integers at both ends of theirs. -/
theorem witness_FxmulRoundsDownByLessThanOneUlp :
    (-2 ^ 31 ≤ (0x80000000 : Word).toInt * fixOne.toInt / 2 ^ 15 ∧ (0x80000000 : Word).toInt * fixOne.toInt / 2 ^ 15 < 2 ^ 31) ∧
    (-2 ^ 31 ≤ (0x7FFFFFFF : Word).toInt * fixOne.toInt / 2 ^ 15 ∧ (0x7FFFFFFF : Word).toInt * fixOne.toInt / 2 ^ 15 < 2 ^ 31) ∧
    ((-65536 : Int) ≤ -65536 * 1 ∧ (65535 : Int) * 1 ≤ 65535) := by decide

theorem witness_FxdivWritesTheTruncatedQuotient : (withOps 1 2).opb ≠ 0 ∧ (withOps 1 0).opb = 0 := by decide

theorem witness_FxdivTruncatesAndObeysItsLaws :
    (0x80000001 : Word) ≠ 0x80000000 ∧ (0x7FFFFFFF : Word) ≠ 0x80000000 ∧ (0x7FFFFFFF : Word) ≠ 0 := by decide

theorem witness_Fx2fGivesTheExactBinary64 : (withOps 0 0).opa = 0 ∧ (withOps 0x80000000 0).opa ≠ 0 := by decide

theorem witness_EstimateWithoutBufferReturnsNoData : State.reset.ready = false := rfl

theorem witness_IngestCopiesAndScrubsTheBackBank : 0 < bufLen (buffered 1).cfg ∧ 7 < bufLen (buffered 1).cfg := by decide

theorem witness_WindowIsTheSymmetricHannTaper : cfg8.wf ∧ 0 < bufLen cfg8 ∧ 7 < bufLen cfg8 :=
  ⟨test_wf_accepts_small, by decide, by decide⟩

theorem witness_PermutationReordersByReversedIndex : 7 < bufLen (buffered 1).cfg ∧ 7 < 2 ^ 3 ∧ 0 < 2 ^ 0 := by decide

/-- The first pair of the first stage and the last pair of the last. -/
theorem witness_FftStagesAreButterfliesOfWholePairs :
    0 < cfg8.log2n ∧ 0 < bufLen cfg8 ∧ 0 % (2 * 2 ^ 0) < 2 ^ 0 ∧ 2 < cfg8.log2n ∧ 3 < bufLen cfg8 ∧
    3 % (2 * 2 ^ 2) < 2 ^ 2 := by decide

theorem witness_MagnitudeIsTheIntegerRoot :
    7 < bufLen (buffered 1).cfg ∧ (buffered 1).cfg.mag = .exactRoot ∧
    (0x7FFFFFFF : Word).toInt * (0x7FFFFFFF : Word).toInt + (0 : Word).toInt * (0 : Word).toInt < 2 ^ 62 ∧
    { cfg8 with mag := .replacement .reAbs }.mag ≠ .exactRoot := by decide

/-- A spectrum with a peak at bin 3 and the empty one, which has none. -/
theorem witness_PeakIsTheLargestStrictLocalMaximum :
    cfg8.log2n ≤ 15 ∧
    (1 ≤ 3 ∧ 3 ≤ bufLen cfg8 / 2 - 1 ∧
      (([8, 4, 2, 5, 0] : List Word).getD 2 0).toInt < (([8, 4, 2, 5, 0] : List Word).getD 3 0).toInt ∧
      (([8, 4, 2, 5, 0] : List Word).getD 4 0).toInt < (([8, 4, 2, 5, 0] : List Word).getD 3 0).toInt ∧
      0 < (([8, 4, 2, 5, 0] : List Word).getD 3 0).toInt) ∧
    ¬(0 < (State.reset.mem.word .fr 3).toInt) := by decide +kernel

/-- Strictly below the floor, and equal to it. -/
theorem witness_LowSignalPassLeavesTheSmoother :
    ((buffered 4092753).ready = true ∧ (passToPeak (buffered 4092753)).peakmag.toInt < (buffered 4092753).cfg.noiseFloor) ∧
    Inv (buffered 4092752) ∧ (buffered 4092752).ready = true ∧
    (passToPeak (buffered 4092752)).peakmag.toInt = (buffered 4092752).cfg.noiseFloor ∧
    s7Interp (passToPeak (buffered 4092752)) = some 0x0588C368 :=
  ⟨⟨rfl, by decide +kernel⟩, inv_buffered, rfl, by decide +kernel, by decide +kernel⟩

theorem witness_EstimatePassTakesOneOfThreeExits :
    State.reset.ready = false ∧ Inv (buffered 4092752) ∧ (buffered 4092752).ready = true := ⟨rfl, inv_buffered, rfl⟩

/-- The lowest and the highest bin, the flattest and the steepest peak. -/
theorem witness_InterpolationStaysWithinHalfABin : cfg8.wf ∧
    ((1 : Nat) ≤ 1 ∧ 1 ≤ bufLen cfg8 / 2 - 1 ∧ (0 : Int) ≤ 0 ∧ (0 : Int) < 1 ∧ (1 : Int) ≤ 2 ^ 29) ∧
    ((1 : Nat) ≤ 3 ∧ 3 ≤ bufLen cfg8 / 2 - 1 ∧ (0 : Int) ≤ 2 ^ 29 - 1 ∧ (2 ^ 29 - 1 : Int) < 2 ^ 29) :=
  ⟨test_wf_accepts_small, by decide, by decide⟩

/-- One unit above the band and one below it. -/
theorem witness_OutlierBelowThresholdIsOnlyStashed :
    (BitVec.ofInt 32 (averaging.ravg.toInt + averaging.rdev.toInt)).toInt < (0x008EFFA9 : Word).toInt ∧
    (0x004D0057 : Word).toInt < (BitVec.ofInt 32 (averaging.ravg.toInt - averaging.rdev.toInt)).toInt ∧
    averaging.outcnt + 1 < averaging.cfg.outlierThresh := by decide

theorem witness_ThresholdOutlierAdoptsTheSideBuffer :
    (BitVec.ofInt 32 (averaging.ravg.toInt + averaging.rdev.toInt)).toInt < (0x008EFFA9 : Word).toInt ∧
    { averaging with outcnt := 2 }.outcnt + 1 = averaging.cfg.outlierThresh ∧
    averaging.cfg.outlierThresh ≤ averaging.cfg.rollingItems := by decide

/-- Both ends of the closed band. -/
theorem witness_InBoundsEstimateJoinsTheHistory :
    (BitVec.ofInt 32 (averaging.ravg.toInt - averaging.rdev.toInt)).toInt ≤ (0x004D0058 : Word).toInt ∧
    (0x004D0058 : Word).toInt ≤ (BitVec.ofInt 32 (averaging.ravg.toInt + averaging.rdev.toInt)).toInt ∧
    (BitVec.ofInt 32 (averaging.ravg.toInt - averaging.rdev.toInt)).toInt ≤ (0x008EFFA8 : Word).toInt ∧
    (0x008EFFA8 : Word).toInt ≤ (BitVec.ofInt 32 (averaging.ravg.toInt + averaging.rdev.toInt)).toInt ∧
    averaging.cursor < averaging.cfg.rollingItems := by decide

/-- A history with one filled slot, whose bounds are the word itself, and an empty one. -/
theorem witness_AverageIsTheTruncatedMeanOfFilledSlots :
    ((List.range averaging.cfg.rollingItems).map (averaging.mem.word .hist)).filter (fun w => decide (w ≠ 0)) =
      [0x006E0000] ∧
    ((List.range 8).map (State.reset.mem.word .hist)).filter (fun w => decide (w ≠ 0)) = [] ∧
    averaging.cfg.rollingItems < 2 ^ 32 ∧ 0 ≤ (recompute averaging).ravg.toInt := by decide +kernel

/-- From reset, the least positive estimate and the greatest the statement allows. -/
theorem witness_RepeatedEstimateBecomesTheAverage :
    State.reset.cfg.sizesOk ∧ State.reset.outcnt = 0 ∧ State.reset.cursor < State.reset.cfg.rollingItems ∧
    State.reset.ravg = 0 ∧ State.reset.rdev = 0 ∧
    (0 < (1 : Word).toInt ∧ (1 : Word).toInt ≤ 50412 * 2 ^ 15) ∧
    (0 < (0x62760000 : Word).toInt ∧ (0x62760000 : Word).toInt = 50412 * 2 ^ 15) := by decide +kernel

theorem witness_SetrefRebuildsTheWholeTable : 0 < lutLen State.reset.cfg ∧ 95 < lutLen State.reset.cfg := by decide

/-- The lowest entry of the longest table and the highest one. -/
theorem witness_LutEntryRoundsTheScaledReference :
    ((-5 : Int) ≤ -5 ∧ 3 < 12 ∧ ((0 : Nat) : Int) = 57 + 12 * (-5) + (3 : Nat)) ∧
    ((5 : Int) ≤ 5 ∧ 2 < 12 ∧ ((119 : Nat) : Int) = 57 + 12 * 5 + (2 : Nat)) ∧
    ((-4 : Int) ≤ -4 ∧ ((9 : Nat) : Int) = 57 + 12 * (-4)) ∧ ((117 : Nat) : Int) = 57 + 12 * 5 := by decide

/-- The least reference and, with eight octaves, the greatest. -/
theorem witness_ReferenceTableIsStrictlyAscending : refConfig.wf ∧
    (1 ≤ 1 ∧ 1 ^ 12 * 2 ^ (lutLen refConfig - 58) < 65536 ^ 12) ∧
    (1 ≤ 7298 ∧ 7298 ^ 12 * 2 ^ (lutLen refConfig - 58) < 65536 ^ 12) :=
  ⟨test_wf_accepts_reference, by decide +kernel, by decide +kernel⟩

theorem witness_LogarithmIsMonotone : 1 ≤ (1 : Word).toInt ∧ (1 : Word).toInt ≤ (0x7FFFFFFF : Word).toInt ∧ 30 < 31 ∧
    (2 ^ 0 ≤ (1 : Word).toInt ∧ (1 : Word).toInt < 2 ^ (0 + 1)) ∧
    2 ^ 30 ≤ (0x7FFFFFFF : Word).toInt ∧ (0x7FFFFFFF : Word).toInt < 2 ^ (30 + 1) := by decide

theorem witness_LogarithmNeverExceedsTheTrueOne : 1 ≤ (1 : Word).toInt ∧ 1 ≤ (0x7FFFFFFF : Word).toInt := by decide

/-- One table and input for each clause: at the highest entry, below the lowest, a lower bracket of 0, a bracket of
log-width 0, nearer the lower note, nearer the upper note. -/
theorem witness_MapfreqChoosesTheNearerNeighbour :
    (∀ k < 96, ((withLut lut440).mem.word .lut k).toInt ≤ (0x07B78880 : Word).toInt) ∧
    (0 < lutLen refConfig ∧ (0x00082D00 : Word).toInt < ((withLut lut440).mem.word .lut 0).toInt) ∧
    (((withLut [0, 5]).mem.word .lut 0).toInt ≤ (0 : Word).toInt ∧
      (0 : Word).toInt < ((withLut [0, 5]).mem.word .lut 1).toInt ∧ ((withLut [0, 5]).mem.word .lut 0).toInt ≤ 0) ∧
    (0 < ((withLut [0x40000000, 0x40000001]).mem.word .lut 0).toInt ∧
      ((withLut [0x40000000, 0x40000001]).mem.word .lut 0).toInt ≤ (0x40000000 : Word).toInt ∧
      (0x40000000 : Word).toInt < ((withLut [0x40000000, 0x40000001]).mem.word .lut 1).toInt ∧
      log2Fix 0x40000000 = log2Fix 0x40000001) ∧
    ((∀ k ≤ 57, ((withLut lut440).mem.word .lut k).toInt ≤ (0x00E20000 : Word).toInt) ∧
      (0x00E28000 : Word).toInt < ((withLut lut440).mem.word .lut 58).toInt ∧
      mapInBracket 0x00E20000 0x00DC0000 0x00E914F6 57 = some (57, 47) ∧
      mapInBracket 0x00E28000 0x00DC0000 0x00E914F6 57 = some (58, 0xFFFFFFCE)) := by decide +kernel

theorem witness_EveryStepKeepsNoteAndCentsInRange : Inv beating ∧ NoteInv beating ∧ ∃ t, step beating = .next t :=
  ⟨inv_beating, by decide +kernel, _, rfl⟩

/-- The first entry of a table of two, at the ends of the range. -/
theorem witness_TableEntryMapsToItself :
    0 + 1 < lutLen refConfig ∧ lutLen refConfig ≤ 2 ^ 32 ∧
    0 < ((withLut lut440).mem.word .lut 0).toInt ∧
    (∀ j < 96, ∀ k < 96, j < k → ((withLut lut440).mem.word .lut j).toInt < ((withLut lut440).mem.word .lut k).toInt) ∧
    log2Fix ((withLut lut440).mem.word .lut 0) ≠ log2Fix ((withLut lut440).mem.word .lut 1) := by decide +kernel

theorem witness_Reference440MapsToNote57 : (withOps 440 0).cfg.wf ∧ (withOps 440 0).opa = 440 :=
  ⟨test_wf_accepts_reference, rfl⟩

/-- The selectors where the clauses meet: 0 and 1, 15 and 16. -/
theorem witness_SetbeatArmsTheClampedInterval :
    (withOps 60 0).opb.toNat = 0 ∧ 1 ≤ (withOps 60 1).opb.toNat ∧ (withOps 60 15).opb.toNat ≤ 15 ∧
    15 < (withOps 60 16).opb.toNat := by decide

theorem witness_TickCountsArmedTimersDown : ∃ rest, sounding.events = .tick :: rest ∧ sounding.fatal = false ∧
    (sounding.toffArmed = true ∧ 1 ≤ sounding.toffCnt) ∧ (sounding.beatArmed = true ∧ 2 ≤ sounding.beatCnt) :=
  ⟨[], rfl, rfl, by decide, by decide⟩

theorem witness_FiringPlaysThePatternEntry : ∃ rest, beating.events = .tick :: rest ∧ beating.fatal = false ∧
    beating.beatArmed = true ∧ beating.beatCnt = 1 ∧ (beating.toffArmed = true → 1 ≤ beating.toffCnt) ∧
    (patternRow beating.cfg beating.beatsel.toNat)[beating.subbeat]? = some .high :=
  ⟨[], rfl, rfl, rfl, rfl, by decide, by decide⟩

theorem witness_ToneEndsBeforeTheNextFiring :
    Inv sounding ∧ ToneGap sounding ∧ (∃ t, step sounding = .next t) ∧
    Inv beating ∧ ToneGap beating ∧ (∃ t, step beating = .next t) ∧ beating.beatCnt = 1 :=
  ⟨inv_sounding, by decide, ⟨_, rfl⟩, inv_beating, by decide, ⟨_, rfl⟩, rfl⟩

/-- With a tone sounding, under the selectors 1 and 15. -/
theorem witness_FirstFiringComesAfterOneInterval :
    Inv { sounding with opa := 60, opb := 1 } ∧ Inv { sounding with opa := 60, opb := 15 } ∧ sounding.fatal = false ∧
    1 ≤ (1 : Word).toNat ∧ (15 : Word).toNat ≤ 15 :=
  ⟨⟨inv_sounding.config, inv_sounding.memory, inv_sounding.smoother, inv_sounding.beat, inv_sounding.status⟩,
    ⟨inv_sounding.config, inv_sounding.memory, inv_sounding.smoother, inv_sounding.beat, inv_sounding.status⟩,
    rfl, by decide, by decide⟩

/-- A configuration outside R8 (its SINE is no sine) whose peak makes the denominator of stage S7 wrap to 0. -/
def steepPeak : State := withBuffer { refConfig with log2n := 2, sine := [0, -491520, 0, 3722337758] } [8192, 0, 1, 0]

theorem witness_FaultEntryHaltsAndSilences :
    (withOps 1 0).opb = 0 ∧ 15 < (withOps 1 16).opb.toNat ∧ (∀ i, decode 0x14 ≠ .ok i) ∧
    (steepPeak.ready = true ∧ steepPeak.cfg.noiseFloor ≤ (passToPeak steepPeak).peakmag.toInt ∧
      s7Interp (passToPeak steepPeak) = none) ∧
    (withLut [0x40000000, 0x40000001]).fatal = false ∧ ∃ t,
      exec .mapfreq { withLut [0x40000000, 0x40000001] with opa := 0x40000000 } = .next t ∧ t.fatal = true :=
  ⟨by decide, by decide, by intro i; cases i <;> decide, by decide +kernel, rfl, _, rfl, by decide +kernel⟩

/-- A denominator that wraps to 0 and one that does not: in the exact argument 2 × (0 + 0 − 2 × 2^30) = −2^32. -/
theorem witness_InterpolationReadsThePeakAndItsNeighbours :
    (BitVec.ofInt 32 (2 * (0 + 0 - 2 * 2 ^ 30)) : Word) = 0 ∧ (BitVec.ofInt 32 (2 * (0 + 0 - 2 * 1)) : Word) ≠ 0 ∧
    [0, 1, 2].map ((passToPeak steepPeak).mem.word .fr) = [0, 0x40000000, 0] ∧ (passToPeak steepPeak).peakbin = 1 := by
  decide +kernel

theorem witness_HaltedUnitIgnoresWritesAndTicks : ∀ e : Event,
    (halted [e]).fatal = true ∧ (halted [e]).events = e :: [] ∧ 63 < bufLen (halted [e]).cfg :=
  fun _ => ⟨rfl, rfl, (by decide : 63 < bufLen refConfig)⟩

theorem witness_OnlyResetLeavesTheHaltedState : (halted [.tick, .acqDone, .reset]).fatal = true ∧
    ∀ e ∈ (halted [.tick, .acqDone, .reset]).events.take 2, e ≠ .reset := by decide

theorem witness_OnlyTheListedCausesHalt : (issuing 0x11).fatal = false ∧
    (afterCmd 0x11 (withOps 1 0)).map (·.fatal) = some true ∧ (afterCmd 0 State.reset).map (·.fatal) = some true ∧
    (afterCmd 0x40 (withOps 1 16)).map (·.fatal) = some true ∧
    (afterCmd 0x30 { withLut [0x40000000, 0x40000001] with opa := 0x40000000 }).map (·.fatal) = some true := by
  decide +kernel

theorem witness_RegisterPortFollowsTheAccessRules :
    (∀ r v, { State.reset with events := [.hostWrite r v] }.events = .hostWrite r v :: [] ∧ State.reset.fatal = false ∧
      (halted [.hostWrite r v]).fatal = true) ∧
    (1 ≠ 0 ∧ 1 ≠ 2 ∧ 1 ≠ 3) ∧ (4 ≠ 0 ∧ 4 ≠ 2 ∧ 4 ≠ 3) ∧ 16 < 17 := ⟨fun _ _ => ⟨rfl, rfl, rfl⟩, by decide⟩

/-- The last index of the bank and the first past it. -/
theorem witness_AcqWriteStoresOneFrontBankWord : 63 < bufLen State.reset.cfg ∧ bufLen State.reset.cfg ≤ 64 ∧
    ∀ k w, { State.reset with events := [.acqWrite k w] }.events = .acqWrite k w :: [] :=
  ⟨by decide, by decide, fun _ _ => rfl⟩

theorem witness_AcqDoneExchangesTheBanks : { State.reset with events := [.acqDone] }.events = .acqDone :: [] := rfl

theorem witness_HandedOverWordsAreTheOnesIngested : wave8.length = bufLen cfg8 ∧
    { State.reset with
      cfg := cfg8
      events := (wave8.mapIdx fun k w => Event.acqWrite k w) ++ [Event.acqDone] }.events =
        (wave8.mapIdx fun k w => Event.acqWrite k w) ++ Event.acqDone :: [] := ⟨by decide, rfl⟩

theorem witness_ResetPutsEveryItemToItsResetValue : (halted [.reset]).events = .reset :: [] := rfl

theorem witness_EveryStepKeepsTheInvariant : Inv beating ∧ ∃ t, step beating = .next t := ⟨inv_beating, _, rfl⟩

theorem witness_NoStepStopsFromALegalState : Inv sounding ∧ Inv beating := ⟨inv_sounding, inv_beating⟩

theorem witness_CommandsWriteOnlyTheirOwnResults : ∀ i : Instr, i ≠ .estimate → ∃ t, exec i (withOps 1 1) = .next t := by
  intro i hi; exact exec_next_of_ne hi _

theorem witness_SchedulerAndPipelineShareNoState :
    (exec .fxmul (withOps 1 1) = .next { withOps 1 1 with resl := fxmul 1 1 } ∧ (withOps 1 1).fatal = false) ∧
    (∃ t, exec .setbeat (withOps 60 11) = .next t ∧ t.fatal = (withOps 60 11).fatal) ∧
    ∃ t, tickEvent beating = .next t := ⟨⟨rfl, rfl⟩, ⟨_, rfl, rfl⟩, _, rfl⟩

theorem witness_ParametersNeverChange : (∃ t, Sys2Proof.core.run 1 beating = .next t) ∧
    (∃ t, step { State.reset with events := [.hostRead 1] } = .next t) ∧
    ∀ r rest, beating.events ≠ .hostRead r :: rest := ⟨⟨_, rfl⟩, ⟨_, rfl⟩, by intro r rest h; cases h⟩

theorem witness_IntervalStaysBetween50And3000 : (20 ≤ 20 ∧ 20 ≤ 300 ∧ 1 ≤ 1 ∧ 1 ≤ 15) ∧ (20 ≤ 300 ∧ 300 ≤ 300 ∧ 1 ≤ 15 ∧ 15 ≤ 15) ∧
    (1 ≤ 10 ∧ 10 ≤ 10) := by decide

theorem witness_SemitoneRomIsTheRoundedPower : 0 < 12 ∧ 11 < 12 := by decide

theorem witness_SineRomIsTheRoundedSine : 0 < bufLen refConfig ∧ 63 < bufLen refConfig := by decide
end

section
/-!
The state's items that need no command: the register port (10_state.md R35, R37) and the ROM SEMI (R46).
-/
namespace Sys2Proof.Machine

/-! ## Writes to the register port, one equation per kind of number -/

theorem runEvent_hostWrite_halted {s : State} (h : s.fatal = true) (r : Nat) (v : Word) :
    runEvent (.hostWrite r v) s = .next s := if_pos h

theorem runEvent_hostWrite_running {s : State} (h : s.fatal = false) (reg : RegName) (v : Word) :
    runEvent (.hostWrite (regNumber reg) v) s =
      match reg with
      | .cmd => issueCommand v s
      | .opa => .next { s with opa := v }
      | .opb => .next { s with opb := v }
      | _ => .next s := by
  have hrun : ¬ s.fatal = true := by simp [h]
  refine (if_neg hrun).trans ?_
  cases reg <;> rfl

theorem runEvent_hostWrite_ignored {r : Nat} (h0 : r ≠ 0) (h2 : r ≠ 2) (h3 : r ≠ 3) (v : Word) (s : State) :
    runEvent (.hostWrite r v) s = .next s := by
  rcases runEvent_hostWrite r v s with ⟨_, h⟩ | ⟨_, ⟨hr, _⟩ | ⟨hr, _⟩ | ⟨hr, _⟩ | ⟨_, _, _, h⟩⟩
  · exact h
  · exact absurd hr h0
  · exact absurd hr h2
  · exact absurd hr h3
  · exact h

/-! ## Reads of the register port -/

@[simp] theorem portRead_regNumber (s : State) (reg : RegName) : portRead s (regNumber reg) = regValue s reg := by
  rw [portRead, regOfNumber_some.2 rfl]

theorem map_portRead_regNumber (s : State) (regs : List RegName) :
    (regs.map regNumber).map (portRead s) = regs.map (regValue s) := by
  simp

theorem regNumber_le (reg : RegName) : regNumber reg ≤ 16 := by
  cases reg <;> decide

theorem portRead_above {r : Nat} (h : 16 < r) (s : State) : portRead s r = 0 := by
  have hnone : regOfNumber r = none := by
    refine Option.eq_none_iff_forall_not_mem.2 fun reg hreg => ?_
    have hr := regOfNumber_some.1 hreg
    have hle := regNumber_le reg
    omega
  rw [portRead, hnone]

/-- Settles O45: the step runs the event, and each kind of write and read has its equation. -/
theorem registerPortFollowsTheAccessRules : Obligations.RegisterPortFollowsTheAccessRules := by
  intro s rest u
  refine ⟨?opa, ?opb, ?cmd, ?ignored, ?halted, ?read, ?values, ?above⟩
  case opa => exact fun v hf he => (step_event he).trans (runEvent_hostWrite_running (s := u) hf .opa v)
  case opb => exact fun v hf he => (step_event he).trans (runEvent_hostWrite_running (s := u) hf .opb v)
  case cmd => exact fun v hf he => (step_event he).trans (runEvent_hostWrite_running (s := u) hf .cmd v)
  case ignored => exact fun r v h0 h2 h3 he => (step_event he).trans (runEvent_hostWrite_ignored h0 h2 h3 v u)
  case halted => exact fun r v hf he => (step_event he).trans (runEvent_hostWrite_halted (s := u) hf r v)
  case read => exact fun r he => step_event he
  case values =>
    exact map_portRead_regNumber s [.cmd, .status, .opa, .opb, .resl, .resh, .errcnt, .dcmag, .peakbin, .peakmag, .est,
      .ravg, .rdev, .note, .cents, .beatsel, .interval]
  case above => exact fun r hr => portRead_above hr s

/-! ## The ROM SEMI

`2^(s/12) × 2^31` is the twelfth root of `2^s × (2^31)^12`, so "nearest to `2^(s/12) × 2^30`" is a pair of inequalities
between whole numbers. -/

/-- SEMI[s] in whole numbers: the odd numbers beside its double enclose the twelfth root of `2^s × (2^31)^12`. -/
theorem semiAt_pow_twelve_bounds :
    ∀ s < 12, (2 * semiAt s - 1) ^ 12 ≤ 2 ^ s * (2 ^ 31) ^ 12 ∧ 2 ^ s * (2 ^ 31) ^ 12 ≤ (2 * semiAt s + 1) ^ 12 := by
  decide

theorem two_rpow_div_twelve_mul_pow (s : ℕ) : ((2 : ℝ) ^ ((s : ℝ) / 12) * 2 ^ 31) ^ 12 = 2 ^ s * (2 ^ 31) ^ 12 := by
  have hroot : ((2 : ℝ) ^ ((s : ℝ) / 12)) ^ 12 = 2 ^ s := by
    rw [← Real.rpow_mul_natCast (by norm_num), ← Real.rpow_natCast]
    congr 1
    push_cast
    ring
  rw [mul_pow, hroot]

/-- A whole number is nearest to `2^(s/12) × 2^30` when the twelfth powers beside its double enclose `2^s × (2^31)^12`. -/
theorem abs_sub_two_rpow_le_half {s a : ℕ} (hlo : (2 * a - 1) ^ 12 ≤ 2 ^ s * (2 ^ 31) ^ 12)
    (hhi : 2 ^ s * (2 ^ 31) ^ 12 ≤ (2 * a + 1) ^ 12) : |(a : ℝ) - (2 : ℝ) ^ ((s : ℝ) / 12) * 2 ^ 30| ≤ 1 / 2 := by
  have hpow := two_rpow_div_twelve_mul_pow s
  have hnonneg : (0 : ℝ) ≤ 2 ^ ((s : ℝ) / 12) * 2 ^ 31 := by positivity
  have hbelow : ((2 * a - 1 : ℕ) : ℝ) ≤ 2 ^ ((s : ℝ) / 12) * 2 ^ 31 := by
    refine le_of_pow_le_pow_left₀ (n := 12) (by norm_num) hnonneg ?_
    rw [hpow]
    exact_mod_cast hlo
  have habove : (2 : ℝ) ^ ((s : ℝ) / 12) * 2 ^ 31 ≤ ((2 * a + 1 : ℕ) : ℝ) := by
    refine le_of_pow_le_pow_left₀ (n := 12) (by norm_num) (Nat.cast_nonneg _) ?_
    rw [hpow]
    exact_mod_cast hhi
  have hpred : (2 * a : ℝ) ≤ ((2 * a - 1 : ℕ) : ℝ) + 1 := by
    exact_mod_cast (by omega : 2 * a ≤ 2 * a - 1 + 1)
  push_cast at habove
  rw [abs_le]
  constructor <;> linarith

/-- Settles O57: the whole-number bounds hold of each of the twelve entries. -/
theorem semitoneRomIsTheRoundedPower : Obligations.SemitoneRomIsTheRoundedPower := by
  intro s hs
  obtain ⟨hlo, hhi⟩ := semiAt_pow_twelve_bounds s hs
  exact abs_sub_two_rpow_le_half hlo hhi

end Sys2Proof.Machine
end

section
/-!
The sample hand-off (20_memory.md section 3): what one AcqWrite and one AcqDone do.
-/
namespace Sys2Proof.Machine

/-! ## AcqWrite, one equation per side of the bank's end -/

/-- The sample written to word `k` of the front bank. -/
def frontBankStore (k : Nat) (w : Sample) (s : State) : State :=
  { s with mem := s.mem.setBank (!s.back) (memInsert (s.mem.bank (!s.back)) k w) }

theorem runEvent_acqWrite_inside {k : Nat} {s : State} (h : k < bufLen s.cfg) (w : Sample) :
    runEvent (.acqWrite k w) s = .next (frontBankStore k w s) := by
  rcases runEvent_acqWrite k w s with ⟨_, hrun⟩ | ⟨hend, _⟩
  · exact hrun
  · omega

theorem runEvent_acqWrite_pastEnd {k : Nat} {s : State} (h : bufLen s.cfg ≤ k) (w : Sample) :
    runEvent (.acqWrite k w) s = .next s := by
  rcases runEvent_acqWrite k w s with ⟨hlt, _⟩ | ⟨_, hrun⟩
  · omega
  · exact hrun

/-! ## The words after a store to the front bank -/

theorem bankWord_frontBankStore_same (k : Nat) (w : Sample) (s : State) :
    bankWord (frontBankStore k w s) (!s.back) k = w :=
  (bankWord_acqWrite s k w (!s.back) k).trans (if_pos ⟨rfl, rfl⟩)

theorem bankWord_frontBankStore_other {s : State} {k i : Nat} {b : Bool} (h : b ≠ (!s.back) ∨ i ≠ k) (w : Sample) :
    bankWord (frontBankStore k w s) b i = bankWord s b i := by
  have hother : ¬ (b = (!s.back) ∧ i = k) := by tauto
  exact (bankWord_acqWrite s k w b i).trans (if_neg hother)

@[simp] theorem word_frontBankStore (k : Nat) (w : Sample) (s : State) (sp : RamSpace) (i : Nat) :
    (frontBankStore k w s).mem.word sp i = s.mem.word sp i :=
  word_setBank ..

/-- Settles O47: past the end the event does nothing, before it the step is the store to the front bank. -/
theorem acqWriteStoresOneFrontBankWord : Obligations.AcqWriteStoresOneFrontBankWord := by
  intro s k w rest he
  let u : State := { s with events := rest }
  refine ⟨fun hend => (step_event he).trans (runEvent_acqWrite_pastEnd (s := u) hend w), fun hlt => ?_⟩
  refine ⟨frontBankStore k w u, (step_event he).trans (runEvent_acqWrite_inside (s := u) hlt w), rfl, ?written, ?otherBankWords,
    ?otherSpaces⟩
  case written => exact bankWord_frontBankStore_same k w u
  case otherBankWords => exact fun b i h => bankWord_frontBankStore_other (s := u) h w
  case otherSpaces => exact word_frontBankStore k w u

/-! ## AcqDone -/

/-- Settles O48: the step runs AcqDone, whose equation asks nothing of READY or FATAL. -/
theorem acqDoneExchangesTheBanks : Obligations.AcqDoneExchangesTheBanks := by
  intro s rest he
  rw [step_event he, runEvent_acqDone]

end Sys2Proof.Machine
end

section
/-!
The encoding (30_encoding.md sections 1 and 3): the words the decoder accepts are the eight command words, and what a
write to CMD does with any word.
-/
namespace Sys2Proof

/-! ## Decoder against encoder -/

theorem commandWord_statement (i : Instr) : Laws.CommandWord.Statement i := by
  cases i with
  | fxmul => exact Laws.CommandWord.fxmul
  | fxdiv => exact Laws.CommandWord.fxdiv
  | i2fx => exact Laws.CommandWord.i2fx
  | fx2f => exact Laws.CommandWord.fx2f
  | estimate => exact Laws.CommandWord.estimate
  | mapfreq => exact Laws.CommandWord.mapfreq
  | setref => exact Laws.CommandWord.setref
  | setbeat => exact Laws.CommandWord.setbeat

theorem decode_encode (i : Instr) : decode (encode i) = .ok i := by
  obtain ⟨_, _, hdecode⟩ := commandWord_statement i
  exact hdecode

theorem eq_opcodeOf_of_decodeOpcode {op : BitVec 8} {i : Instr} (h : decodeOpcode op = .ok i) : op = opcodeOf i := by
  unfold decodeOpcode at h
  split_ifs at h with hop hop hop hop hop hop hop hop <;> cases h <;> exact hop

/-- A word whose reserved field is clear is its opcode zero-extended (R81). -/
theorem eq_zeroExtend_opcodeField {v : Word} (h : zeroField v = 0) : v = (opcodeField v).zeroExtend 32 := by
  have hhigh : (zeroField v).toNat = 0 := congrArg BitVec.toNat h
  refine BitVec.eq_of_toNat_eq ?_
  simp only [zeroField, opcodeField, BitVec.extractLsb'_toNat, BitVec.toNat_setWidth, Nat.shiftRight_eq_div_pow]
    at hhigh ⊢
  omega

theorem eq_encode_of_decode {v : Word} {i : Instr} (h : decode v = .ok i) : v = encode i := by
  unfold decode at h
  split_ifs at h with hzero
  have hop : opcodeField v = opcodeOf i := eq_opcodeOf_of_decodeOpcode h
  rw [eq_zeroExtend_opcodeField hzero, hop, encode]

/-- Settles O2: the eight words are the encodings of the eight commands. -/
theorem commandWordsDecodeAsTheOpcodeTable : Obligations.CommandWordsDecodeAsTheOpcodeTable :=
  ⟨decode_encode .fxmul, decode_encode .fxdiv, decode_encode .i2fx, decode_encode .fx2f, decode_encode .estimate,
    decode_encode .mapfreq, decode_encode .setref, decode_encode .setbeat⟩

namespace Machine

/-! ## A word written to CMD -/

theorem issueCommand_encode (i : Instr) (s : State) : issueCommand (encode i) s = exec i s := by
  rw [issueCommand, decode_encode]

theorem issueCommand_of_ne_encode {v : Word} (h : ∀ i, v ≠ encode i) (s : State) :
    issueCommand v s = .next (raise .illCmd s) := by
  rcases issueCommand_cases v s with ⟨i, hdecode, _⟩ | ⟨_, hissue⟩
  · exact absurd (eq_encode_of_decode hdecode) (h i)
  · exact hissue

/-- Settles O4: a halted unit ignores the write, and a running one issues the word, which is one of the eight encodings
or none. -/
theorem cmdWriteRunsOneOfEightOrFaults : Obligations.CmdWriteRunsOneOfEightOrFaults := by
  intro s v rest he u
  refine ⟨fun hfatal => (step_event he).trans (runEvent_hostWrite_halted (s := u) hfatal 0 v), fun hfatal => ?_⟩
  have hstep : step s = issueCommand v u := (step_event he).trans (runEvent_hostWrite_running (s := u) hfatal .cmd v)
  have hcommand (i : Instr) (hv : v = encode i) : step s = exec i u := by
    rw [hstep, hv, issueCommand_encode]
  refine ⟨hcommand .fxmul, hcommand .fxdiv, hcommand .i2fx, hcommand .fx2f, hcommand .estimate, hcommand .mapfreq,
    hcommand .setref, hcommand .setbeat, ?illegal⟩
  case illegal =>
    intro h10 h11 h12 h13 h20 h30 h31 h40
    have hne (i : Instr) : v ≠ encode i := by
      cases i with
      | fxmul => exact h10
      | fxdiv => exact h11
      | i2fx => exact h12
      | fx2f => exact h13
      | estimate => exact h20
      | mapfreq => exact h30
      | setref => exact h31
      | setbeat => exact h40
    exact hstep.trans (issueCommand_of_ne_encode hne u)

end Machine
end Sys2Proof
end

section
/-!
The fixed-point kernel (40_fixed_point.md sections 1 to 4): the laws of the four functions, and what their commands write.
-/
namespace Sys2Proof.Machine

/-! ## Words and the integers they stand for -/

/-- A narrowing keeps exactly the integers of the signed 32-bit range. -/
theorem sext_wrap32_eq_iff (v : Int) : sext (wrap32 v) = v ↔ -2147483648 ≤ v ∧ v < 2147483648 := by
  refine ⟨fun h => ?_, fun ⟨hge, hlt⟩ => sext_wrap32 hge hlt⟩
  rw [← h]
  exact ⟨sext_ge _, sext_lt _⟩

theorem natAbs_toInt_le (a : Word) : a.toInt.natAbs ≤ 2 ^ 31 := by
  have hge : -2147483648 ≤ a.toInt := sext_ge a
  have hlt : a.toInt < 2147483648 := sext_lt a
  omega

theorem toInt_ne_zero {a : Word} (h : a ≠ 0) : a.toInt ≠ 0 := fun h0 => h (sext_eq_zero.1 h0)

/-- Only the lowest word has no negative among the words. -/
theorem toInt_neg_of_ne_lowest {a : Word} (h : a ≠ 0x80000000) : (-a).toInt = -a.toInt :=
  BitVec.toInt_neg_of_ne_intMin h

theorem neg_ne_zero_of_ne {a : Word} (h : a ≠ 0) : -a ≠ 0 := fun h0 => h (BitVec.neg_eq_zero_iff.1 h0)

theorem toInt_fixOne : fixOne.toInt = 2 ^ 15 := by decide

theorem fixOne_ne_zero : fixOne ≠ 0 := by decide

/-! ## The conversion of integers -/

/-- The conversion loses nothing exactly on the integers a Fix can hold (R107). -/
theorem i2fx_toInt_eq_iff (n : Int) : (i2fx n).toInt = n * 2 ^ 15 ↔ -65536 ≤ n ∧ n ≤ 65535 := by
  rw [i2fx_eq]
  refine (sext_wrap32_eq_iff _).trans ?_
  omega

/-- Settles O9: the command's equation, then the range on which the conversion loses nothing. -/
theorem i2fxScalesAndIsLosslessInRange : Obligations.I2fxScalesAndIsLosslessInRange := by
  refine ⟨fun s => ?_, fun n => ⟨i2fx_eq _, i2fx_toInt_eq_iff _⟩, by decide⟩
  rw [exec_i2fx, i2fx_eq]

/-! ## The product -/

theorem fxmul_comm (a b : Word) : fxmul a b = fxmul b a := by
  rw [fxmul_eq, fxmul_eq, Int.mul_comm]

theorem fxmul_fixOne (a : Word) : fxmul a fixOne = a := by
  rw [fxmul_eq, toInt_fixOne, Int.mul_ediv_cancel _ (by norm_num), BitVec.ofInt_toInt]

theorem fxmul_zero_right (a : Word) : fxmul a 0 = 0 := (fxmul_comm a 0).trans (fxmul_zero_left a)

/-- The exact product has at most 63 bits. -/
theorem abs_toInt_mul_le (a b : Word) : |a.toInt * b.toInt| ≤ 2 ^ 62 := by
  have hnat : (a.toInt * b.toInt).natAbs ≤ 2 ^ 31 * 2 ^ 31 :=
    Int.natAbs_mul .. ▸ Nat.mul_le_mul (natAbs_toInt_le a) (natAbs_toInt_le b)
  rw [Int.abs_eq_natAbs]
  omega

/-- The product of two words fits a signed 64-bit register (R101). -/
theorem toInt_mul_fits_64 (a b : Word) : -2 ^ 63 ≤ a.toInt * b.toInt ∧ a.toInt * b.toInt < 2 ^ 63 := by
  have h := abs_le.1 (abs_toInt_mul_le a b)
  omega

/-- Without a wrap the product is rounded down, by less than one unit. -/
theorem fxmul_error_bounds {a b : Word} (hge : -2 ^ 31 ≤ a.toInt * b.toInt / 2 ^ 15)
    (hlt : a.toInt * b.toInt / 2 ^ 15 < 2 ^ 31) :
    0 ≤ a.toInt * b.toInt - (fxmul a b).toInt * 2 ^ 15 ∧ a.toInt * b.toInt - (fxmul a b).toInt * 2 ^ 15 < 2 ^ 15 := by
  have hfloor : (fxmul a b).toInt = a.toInt * b.toInt / 2 ^ 15 := by
    rw [fxmul_eq]
    exact sext_wrap32 hge hlt
  omega

/-- Products of integers are exact: a product of two multiples of `2^15` is a multiple of `2^30` (R102). -/
theorem fxmul_i2fx {a b : Int} (ha : -65536 ≤ a ∧ a ≤ 65535) (hb : -65536 ≤ b ∧ b ≤ 65535) :
    fxmul (i2fx a) (i2fx b) = i2fx (a * b) := by
  have hprod : a * 2 ^ 15 * (b * 2 ^ 15) = a * b * 2 ^ 15 * 2 ^ 15 := by ring
  rw [fxmul_eq, (i2fx_toInt_eq_iff a).2 ha, (i2fx_toInt_eq_iff b).2 hb, hprod, Int.mul_ediv_cancel _ (by norm_num),
    i2fx_eq]

/-- Settles O6, from the product's laws and bounds; the factors' own ranges make the last clause exact. -/
theorem fxmulRoundsDownByLessThanOneUlp : Obligations.FxmulRoundsDownByLessThanOneUlp := by
  refine ⟨fun a b => ?laws, fun a b => fxmul_error_bounds, by decide, by decide, by decide, ?integers⟩
  case laws => exact ⟨fxmul_eq a b, fxmul_comm a b, fxmul_fixOne a, fxmul_zero_right a, toInt_mul_fits_64 a b⟩
  case integers => exact fun a b ha ha' hb hb' _ _ => fxmul_i2fx ⟨ha, ha'⟩ ⟨hb, hb'⟩

/-- Settles O5: the command's equation with the product's formula. -/
theorem fxmulWritesTheFlooredProduct : Obligations.FxmulWritesTheFlooredProduct := by
  intro s
  rw [exec_fxmul, fxmul_eq]

/-! ## The quotient -/

/-- The exact quotient is no longer than the promoted dividend. -/
theorem abs_tdiv_toInt_le (a b : Word) : |(a.toInt * 2 ^ 15).tdiv b.toInt| ≤ 2 ^ 46 := by
  have hquot := tdiv_natAbs_le (a.toInt * 2 ^ 15) b.toInt
  have hdividend := natAbs_toInt_le a
  rw [Int.abs_eq_natAbs]
  omega

theorem fxdiv_fixOne (a : Word) : fxdiv a fixOne = some a := by
  rw [fxdiv_of_ne fixOne_ne_zero, toInt_fixOne, Int.mul_tdiv_cancel _ (by norm_num), BitVec.ofInt_toInt]

theorem fxdiv_self {a : Word} (h : a ≠ 0) : fxdiv a a = some fixOne := by
  rw [fxdiv_of_ne h, Int.mul_tdiv_cancel_left _ (toInt_ne_zero h)]
  rfl

theorem fxdiv_zero_left {a : Word} (h : a ≠ 0) : fxdiv 0 a = some 0 := by
  simp [fxdiv_of_ne h]

theorem fxdiv_neg_left {a b : Word} (ha : a ≠ 0x80000000) (hb : b ≠ 0) :
    fxdiv (-a) b = (fxdiv a b).map (fun q => -q) := by
  rw [fxdiv_of_ne hb, fxdiv_of_ne hb, toInt_neg_of_ne_lowest ha, Int.neg_mul, Int.neg_tdiv, BitVec.ofInt_neg,
    Option.map_some]

theorem fxdiv_neg_right (a : Word) {b : Word} (hlowest : b ≠ 0x80000000) (hzero : b ≠ 0) :
    fxdiv a (-b) = (fxdiv a b).map (fun q => -q) := by
  rw [fxdiv_of_ne hzero, fxdiv_of_ne (neg_ne_zero_of_ne hzero), toInt_neg_of_ne_lowest hlowest, Int.tdiv_neg,
    BitVec.ofInt_neg, Option.map_some]

/-- Settles O8, from the quotient's laws: a sign taken from either operand is a sign taken from the result. -/
theorem fxdivTruncatesAndObeysItsLaws : Obligations.FxdivTruncatesAndObeysItsLaws := by
  refine ⟨fun a b hb => ⟨fxdiv_of_ne hb, abs_tdiv_toInt_le a b⟩, fun a => ⟨fxdiv_eq_none.2 rfl, fxdiv_fixOne a⟩,
    fun a ha => ⟨fxdiv_self ha, fxdiv_zero_left ha⟩, fun a b ha hb hzero => ?signs, by decide⟩
  case signs =>
    exact ⟨(fxdiv_neg_left ha hzero).trans (fxdiv_neg_right a hb hzero).symm, fxdiv_neg_left ha hzero⟩

/-- Settles O7: a zero divisor excludes the quotient, any other one excludes the fault. -/
theorem fxdivWritesTheTruncatedQuotient : Obligations.FxdivWritesTheTruncatedQuotient := by
  intro s
  rcases exec_fxdiv_cases s with ⟨hzero, hexec⟩ | ⟨hne, q, hquot, hexec⟩
  · exact ⟨fun hne => absurd hzero hne, fun _ => hexec⟩
  · refine ⟨fun _ => ?_, fun hzero => absurd hzero hne⟩
    rw [fxdiv_of_ne hne] at hquot
    rw [hexec, ← Option.some.inj hquot]

/-! ## Binary64 patterns by their three fields (R109) -/

/-- The pattern with the given sign, biased exponent and fraction. -/
def binary64Pack (neg : Bool) (e f : Nat) : Pattern64 :=
  BitVec.ofBool neg ++ BitVec.ofNat 11 e ++ BitVec.ofNat 52 f

theorem binary64Exponent_pack {e : Nat} (he : e < 2 ^ 11) (neg : Bool) (f : Nat) :
    binary64Exponent (binary64Pack neg e f) = e := by
  rw [binary64Exponent, binary64Pack, BitVec.extractLsb'_append_eq_of_le (by norm_num),
    BitVec.extractLsb'_append_eq_right, BitVec.toNat_ofNat, Nat.mod_eq_of_lt he]

theorem binary64Fraction_pack {f : Nat} (hf : f < 2 ^ 52) (neg : Bool) (e : Nat) :
    binary64Fraction (binary64Pack neg e f) = f := by
  rw [binary64Fraction, binary64Pack, BitVec.extractLsb'_append_eq_right, BitVec.toNat_ofNat, Nat.mod_eq_of_lt hf]

theorem getLsbD_binary64Pack (neg : Bool) (e f : Nat) : (binary64Pack neg e f).getLsbD 63 = neg := by
  rw [binary64Pack, BitVec.getLsbD_append, if_neg (by norm_num), BitVec.getLsbD_append, if_neg (by norm_num)]
  simp

/-- A non-zero exponent field tells the pattern from that of +0. -/
theorem binary64Pack_ne_zero {e : Nat} (hpos : 0 < e) (he : e < 2 ^ 11) (neg : Bool) (f : Nat) :
    binary64Pack neg e f ≠ 0 := by
  intro h0
  have hexp := binary64Exponent_pack he neg f
  rw [h0, show binary64Exponent 0 = 0 from rfl] at hexp
  omega

theorem binary64Value_pack {e f : Nat} (hpos : 0 < e) (he : e < 2 ^ 11) (hf : f < 2 ^ 52) (neg : Bool) :
    binary64Value (binary64Pack neg e f) =
      (if neg then -1 else 1) * (1 + (f : ℚ) / 2 ^ 52) * (2 : ℚ) ^ ((e : ℤ) - 1023) := by
  rw [binary64Value, if_neg (binary64Pack_ne_zero hpos he neg f), getLsbD_binary64Pack, binary64Fraction_pack hf,
    binary64Exponent_pack he]

/-! ## The binary64 pattern of a Fix -/

/-- The 52 bits below the leading bit of a number of at most 53 bits. -/
def fractionOf (m : Nat) : Nat := (m - 2 ^ msb m) * 2 ^ (52 - msb m)

theorem msb_le_of_le {m k : Nat} (h0 : m ≠ 0) (h : m ≤ 2 ^ k) : msb m ≤ k :=
  (Nat.pow_le_pow_iff_right (by norm_num)).1 ((Nat.log2_self_le h0).trans h)

theorem fractionOf_lt {m : Nat} (h : msb m ≤ 52) : fractionOf m < 2 ^ 52 := by
  have htop : m < 2 ^ (msb m + 1) := Nat.lt_log2_self
  have hbelow : m - 2 ^ msb m < 2 ^ msb m := by
    have hpos : 0 < 2 ^ msb m := Nat.two_pow_pos _
    rw [pow_succ] at htop
    omega
  calc fractionOf m < 2 ^ msb m * 2 ^ (52 - msb m) := Nat.mul_lt_mul_of_pos_right hbelow (Nat.two_pow_pos _)
    _ = 2 ^ 52 := by rw [← pow_add, Nat.add_sub_cancel' h]

/-- The leading bit and the fraction give the number back. -/
theorem significand_mul_two_pow_msb {m : Nat} (h0 : m ≠ 0) (h : msb m ≤ 52) :
    (1 + (fractionOf m : ℚ) / 2 ^ 52) * 2 ^ msb m = m := by
  have hlead : 2 ^ msb m ≤ m := Nat.log2_self_le h0
  have hscale : (2 : ℚ) ^ (52 - msb m) * 2 ^ msb m = 2 ^ 52 := by rw [← pow_add, Nat.sub_add_cancel h]
  calc (1 + (fractionOf m : ℚ) / 2 ^ 52) * 2 ^ msb m
      = 2 ^ msb m + ((m : ℚ) - 2 ^ msb m) * ((2 : ℚ) ^ (52 - msb m) * 2 ^ msb m) / 2 ^ 52 := by
        rw [fractionOf]; push_cast [hlead]; ring
    _ = (m : ℚ) := by rw [hscale]; ring

theorem fx2f_zero : fx2f 0 = 0 := by decide

/-- The fields of the pattern of a non-zero Fix. -/
theorem fx2f_of_ne {a : Word} (h : a ≠ 0) :
    fx2f a = binary64Pack (decide (a.toInt < 0)) (msb a.toInt.natAbs + 1008) (fractionOf a.toInt.natAbs) :=
  if_neg (mt sext_eq_zero.1 h)

theorem msb_natAbs_toInt_le {a : Word} (h : a ≠ 0) : msb a.toInt.natAbs ≤ 31 :=
  msb_le_of_le (Int.natAbs_ne_zero.2 (toInt_ne_zero h)) (natAbs_toInt_le a)

theorem sign_mul_natAbs (v : Int) : (if decide (v < 0) then -1 else 1) * (v.natAbs : ℚ) = v := by
  rcases lt_or_ge v 0 with hneg | hnonneg
  · simp [hneg, abs_of_neg]
  · simp [not_lt.2 hnonneg, abs_of_nonneg hnonneg]

/-- The pattern's value is that of the Fix, with no rounding: the leading bit's place `msb - 15` is the exponent. -/
theorem binary64Value_fx2f (a : Word) : binary64Value (fx2f a) = (a.toInt : ℚ) / 2 ^ 15 := by
  by_cases h : a = 0
  · rw [h, fx2f_zero]
    simp [binary64Value]
  · have hne : a.toInt.natAbs ≠ 0 := Int.natAbs_ne_zero.2 (toInt_ne_zero h)
    have hmsb := msb_natAbs_toInt_le h
    have hscale : (2 : ℚ) ^ (((msb a.toInt.natAbs + 1008 : ℕ) : ℤ) - 1023) = 2 ^ msb a.toInt.natAbs / 2 ^ 15 := by
      rw [show ((msb a.toInt.natAbs + 1008 : ℕ) : ℤ) - 1023 = (msb a.toInt.natAbs : ℤ) - (15 : ℕ) by omega,
        zpow_sub₀ (by norm_num), zpow_natCast, zpow_natCast]
    rw [fx2f_of_ne h, binary64Value_pack (by omega) (by omega) (fractionOf_lt (by omega)), hscale, ← mul_div_assoc,
      mul_assoc, significand_mul_two_pow_msb hne (by omega), sign_mul_natAbs]

/-- Settles O10: the words written are the halves of the Fix's pattern. -/
theorem fx2fGivesTheExactBinary64 : Obligations.Fx2fGivesTheExactBinary64 := by
  intro s
  refine ⟨fx2f s.opa, exec_fx2f s, binary64Value_fx2f s.opa, fun h => by rw [h, fx2f_zero], fun h => ?_⟩
  have hmsb := msb_natAbs_toInt_le h
  rw [fx2f_of_ne h, binary64Exponent_pack (by omega), getLsbD_binary64Pack]
  exact ⟨by omega, by omega, rfl⟩

end Sys2Proof.Machine
end

section
/-!
Stages S1 to S3 of the estimator (41_estimate.md sections 2 to 4): the ingest with its scrub, the Hann window, the
bit-reversed order.
-/
namespace Sys2Proof.Machine

/-! ## S1: ingest -/

theorem i2fx_natCast (n : Nat) : i2fx n = BitVec.ofNat 32 (n * 2 ^ 15) := by
  rw [i2fx_eq, ← BitVec.ofInt_natCast]
  push_cast
  rfl

theorem sampleReading_eq_mod (w : Sample) : sampleReading w = w.toNat % 2 ^ 15 := by
  simp [sampleReading]

theorem countP_bankWords (s : State) (b : Bool) (p : Sample → Bool) :
    (bankWords s b).countP p = (List.range (bufLen s.cfg)).countP fun k => p (bankWord s b k) :=
  List.countP_map

/-- Settles O12: each clause is the rule for S1 on that item. -/
theorem ingestCopiesAndScrubsTheBackBank : Obligations.IngestCopiesAndScrubsTheBackBank := by
  intro s t
  have herrcnt : t.errcnt = BitVec.ofNat 32 ((bankWords s s.back).countP sampleFlag) := s1Ingest_errcnt s
  have hsamperr : t.samperr = decide (0 < (bankWords s s.back).countP sampleFlag) := s1Ingest_samperr s
  rw [countP_bankWords] at herrcnt hsamperr
  refine ⟨fun k hk => ⟨?reading, s1Ingest_word_fi s k, s1Ingest_bankWord_back s hk⟩, s1Ingest_bankWord_front s,
    fun sp hfr hfi => s1Ingest_word_ne s hfr hfi, herrcnt, ?samperr, rfl⟩
  case reading => rw [s1Ingest_word_fr s hk, i2fx_natCast, sampleReading_eq_mod]
  case samperr =>
    rw [hsamperr, decide_eq_true_iff, List.countP_pos_iff]
    simp only [List.mem_range, sampleFlag]

/-! ## S2: window

A legal configuration has `N = 4q`. The coefficient of index `k` reads the sine `q` places ahead, so the taper's
symmetry is that of the sine about `q` and about `3q`. -/

/-- The SINE word the coefficient of index `k` reads. -/
def cosineAt (c : Config) (k : Nat) : Int := sineAt c ((k + bufLen c / 4) % bufLen c)

theorem windowCoeff_eq (c : Config) (k : Nat) : windowCoeff c k = BitVec.ofInt 32 ((32768 - cosineAt c k) / 2) := by
  rw [windowCoeff, asr_eq]
  rfl

theorem bufLen_eq_four_mul {c : Config} (h : c.sizesOk) : ∃ q, 0 < q ∧ bufLen c = 4 * q := by
  obtain ⟨⟨hlog, _⟩, _⟩ := h
  refine ⟨2 ^ (c.log2n - 2), by positivity, ?_⟩
  rw [bufLen, show (4 : Nat) = 2 ^ 2 from rfl, ← pow_add]
  congr 1
  omega

theorem sineAt_bounds {c : Config} (h : c.sineOk) (k : Nat) : -32768 ≤ sineAt c k ∧ sineAt c k ≤ 32768 := by
  obtain ⟨_, hamplitude, _⟩ := h
  by_cases hk : k < c.sine.length
  · rw [sineAt, List.getD_eq_getElem _ _ hk]
    exact hamplitude _ (List.getElem_mem hk)
  · rw [sineAt, List.getD_eq_default _ _ (by omega)]
    decide

theorem toInt_windowCoeff {c : Config} (h : c.sineOk) (k : Nat) :
    (windowCoeff c k).toInt = (32768 - cosineAt c k) / 2 := by
  have hbounds : -32768 ≤ cosineAt c k ∧ cosineAt c k ≤ 32768 := sineAt_bounds h _
  rw [windowCoeff_eq]
  exact sext_wrap32 (by omega) (by omega)

theorem cosineAt_zero {c : Config} (hsize : c.sizesOk) (hsine : c.sineOk) : cosineAt c 0 = 32768 := by
  obtain ⟨q, hq, hN⟩ := bufLen_eq_four_mul hsize
  obtain ⟨_, _, _, hquarter, _⟩ := hsine
  rw [cosineAt, Nat.zero_add, Nat.mod_eq_of_lt (by omega), hquarter]

theorem cosineAt_half {c : Config} (hsize : c.sizesOk) (hsine : c.sineOk) :
    cosineAt c (bufLen c / 2) = -32768 := by
  obtain ⟨q, hq, hN⟩ := bufLen_eq_four_mul hsize
  obtain ⟨_, _, _, _, _, hthreeQuarters, _⟩ := hsine
  have hplace : (bufLen c / 2 + bufLen c / 4) % bufLen c = 3 * bufLen c / 4 := by
    rw [Nat.mod_eq_of_lt (by omega)]
    omega
  rw [cosineAt, hplace, hthreeQuarters]

/-- The sine about its lowest point, three quarters of the period. -/
theorem sineAt_reflect_upper {c : Config} (hsine : c.sineOk) {i j : Nat} (hi : bufLen c / 2 ≤ i) (hj : bufLen c / 2 ≤ j)
    (hiN : i < 2 * (bufLen c / 2)) (hjN : j < 2 * (bufLen c / 2)) (hsum : i + j = 3 * (bufLen c / 2)) :
    sineAt c i = sineAt c j := by
  obtain ⟨_, _, _, _, _, _, hshift, hreflect⟩ := hsine
  have hbelow (n : Nat) (hn : bufLen c / 2 ≤ n) (hnN : n < 2 * (bufLen c / 2)) :
      sineAt c n = -sineAt c (n - bufLen c / 2) := by
    rw [← hshift (n - bufLen c / 2) (by omega), Nat.add_sub_cancel' hn]
  have hmirror := hreflect (j - bufLen c / 2) (by omega)
  rw [hbelow i hi hiN, hbelow j hj hjN, ← hmirror]
  congr 2
  omega

theorem cosineAt_symm {c : Config} (hsize : c.sizesOk) (hsine : c.sineOk) {k : Nat} (hpos : 1 ≤ k) (hk : k < bufLen c) :
    cosineAt c (bufLen c - k) = cosineAt c k := by
  obtain ⟨q, hq, hN⟩ := bufLen_eq_four_mul hsize
  have hhalf : bufLen c / 2 = 2 * q := by omega
  have hquarter : bufLen c / 4 = q := by omega
  have hreflect (i : Nat) (hi : i < 2 * q + 1) : sineAt c (2 * q - i) = sineAt c i := by
    obtain ⟨_, _, _, _, _, _, _, hreflect⟩ := hsine
    simpa only [hhalf] using hreflect i (by omega)
  rw [cosineAt, cosineAt, hquarter]
  rcases Nat.lt_or_ge q k with hfirst | hfirst
  · rcases Nat.lt_or_ge k (3 * q) with hmiddle | hlast
    · rw [Nat.mod_eq_of_lt (by omega), Nat.mod_eq_of_lt (by omega)]
      exact sineAt_reflect_upper hsine (by omega) (by omega) (by omega) (by omega) (by omega)
    · rw [Nat.mod_eq_of_lt (by omega), Nat.mod_eq_sub_mod (by omega), Nat.mod_eq_of_lt (by omega),
        ← hreflect _ (by omega)]
      congr 1
      omega
  · rw [Nat.mod_eq_sub_mod (by omega), Nat.mod_eq_of_lt (by omega), Nat.mod_eq_of_lt (by omega),
      ← hreflect (k + q) (by omega)]
    congr 1
    omega

/-- Settles O13: the products are the rule for S2, and the taper's ends, middle, range and symmetry are those of the
cosine it reads. -/
theorem windowIsTheSymmetricHannTaper : Obligations.WindowIsTheSymmetricHannTaper := by
  refine ⟨fun s => ⟨fun k hk => ?product, fun sp hfr => s2Window_word_ne s hfr, s2Window_bank s, rfl⟩,
    fun c hc => ?taper⟩
  case product => exact (s2Window_word_fr s hk).trans (congrArg _ (windowCoeff_eq s.cfg k))
  case taper =>
    obtain ⟨hsize, hsine, _⟩ := hc
    refine ⟨?ends, ?middle, fun k hk => ?range, fun k hpos hk => ?symmetric⟩
    case ends => rw [windowCoeff_eq, cosineAt_zero hsize hsine]; rfl
    case middle => rw [windowCoeff_eq, cosineAt_half hsize hsine]; rfl
    case range =>
      have hbounds : -32768 ≤ cosineAt c k ∧ cosineAt c k ≤ 32768 := sineAt_bounds hsine _
      rw [toInt_windowCoeff hsine]
      omega
    case symmetric => rw [windowCoeff_eq, windowCoeff_eq, cosineAt_symm hsize hsine hpos hk]

/-! ## S3: bit-reversed order -/

theorem revBits_lt (n m : Nat) : revBits n m < 2 ^ n := by
  induction n generalizing m with
  | zero => simp [revBits]
  | succ n ih =>
    have hbit : m % 2 * 2 ^ n ≤ 1 * 2 ^ n := Nat.mul_le_mul_right _ (by omega)
    have hrest := ih (m / 2)
    rw [revBits, pow_succ]
    omega

theorem testBit_revBits (n m i : Nat) : (revBits n m).testBit i = (decide (i < n) && m.testBit (n - 1 - i)) := by
  induction n generalizing m with
  | zero => simp [revBits]
  | succ n ih =>
    rw [revBits, Nat.mul_comm, Nat.testBit_two_pow_mul_add _ (revBits_lt n (m / 2))]
    rcases Nat.lt_trichotomy i n with hlow | htop | hhigh
    · rw [if_pos hlow, ih, Nat.testBit_div_two, show n - 1 - i + 1 = n + 1 - 1 - i by omega]
      simp [hlow, Nat.lt_succ_of_lt hlow]
    · subst htop
      simp
    · rw [if_neg (by omega)]
      have hzero : (m % 2).testBit (i - n) = false :=
        Nat.testBit_lt_two_pow (lt_of_lt_of_le (Nat.mod_lt m two_pos) (Nat.le_self_pow (by omega) 2))
      simp [hzero, show ¬ i < n + 1 by omega]

theorem revBits_revBits {n m : Nat} (h : m < 2 ^ n) : revBits n (revBits n m) = m := by
  refine Nat.eq_of_testBit_eq fun i => ?_
  rw [testBit_revBits, testBit_revBits]
  rcases Nat.lt_or_ge i n with hi | hi
  · simp [hi, show n - 1 - i < n by omega, show n - 1 - (n - 1 - i) = i by omega]
  · have hzero : m.testBit i = false := Nat.testBit_lt_two_pow (h.trans_le (Nat.pow_le_pow_right two_pos hi))
    simp [hzero, show ¬ i < n by omega]

theorem revBits_eq_sum (n m : Nat) :
    revBits n m = ((List.range n).map fun i => (m.testBit i).toNat * 2 ^ (n - 1 - i)).sum := by
  induction n generalizing m with
  | zero => rfl
  | succ n ih =>
    have hlowest : (m.testBit 0).toNat * 2 ^ (n + 1 - 1 - 0) = m % 2 * 2 ^ n := by
      rw [Nat.toNat_testBit]
      simp
    have hothers (i : Nat) :
        (m.testBit (i + 1)).toNat * 2 ^ (n + 1 - 1 - (i + 1)) = ((m / 2).testBit i).toNat * 2 ^ (n - 1 - i) := by
      rw [Nat.testBit_add_one, show n + 1 - 1 - (i + 1) = n - 1 - i by omega]
    rw [revBits, ih, List.range_succ_eq_map, List.map_cons, List.sum_cons, hlowest, List.map_map]
    simp only [Function.comp_def, hothers]

theorem s3Permute_word_fr (s : State) {m : Nat} (h : m < bufLen s.cfg) :
    (s3Permute s).mem.word .fr m = s.mem.word .fr (revBits s.cfg.log2n m) := by
  rw [s3Permute_mem, word_fill_ne _ _ _ (by decide), permuted, word_fill_range, if_pos h]

theorem s3Permute_word_fi (s : State) {m : Nat} (h : m < bufLen s.cfg) :
    (s3Permute s).mem.word .fi m = s.mem.word .fi (revBits s.cfg.log2n m) := by
  rw [s3Permute_mem, permuted, permuted, word_fill_range, if_pos h]

/-- Settles O14: the words moved are the rule for S3, and the laws of `rev` are read off its bits. -/
theorem permutationReordersByReversedIndex : Obligations.PermutationReordersByReversedIndex :=
  ⟨fun s => ⟨fun _ hm => ⟨s3Permute_word_fr s hm, s3Permute_word_fi s hm⟩,
      fun _ hfr hfi => s3Permute_word_ne s hfr hfi, s3Permute_bank s, rfl⟩,
    fun n m hm => ⟨revBits_lt n m, revBits_revBits hm, revBits_eq_sum n m⟩⟩

end Sys2Proof.Machine
end

section
/-!
The butterflies of stage S4 (41_estimate.md section 5, R128). A butterfly touches its own pair of places and reads
nothing else, so what a stage leaves in a pair is that pair's one butterfly on the words the stage started with.
-/
namespace Sys2Proof.Machine

/-! ## One butterfly -/

/-- What the two arrays hold at the places `a` and `b`, nothing at a place past an array's end. -/
def pairAt (a b : Nat) (x : ReIm) : (Option Word × Option Word) × Option Word × Option Word :=
  ((x.1[a]?, x.2[a]?), x.1[b]?, x.2[b]?)

theorem pairAt_congr {a b : Nat} {x y : ReIm} (h : pairAt a b x = pairAt a b y) :
    x.1.getD a 0 = y.1.getD a 0 ∧ x.2.getD a 0 = y.2.getD a 0 ∧ x.1.getD b 0 = y.1.getD b 0 ∧
      x.2.getD b 0 = y.2.getD b 0 := by
  simp only [pairAt, Prod.mk.injEq] at h
  obtain ⟨⟨hra, hia⟩, hrb, hib⟩ := h
  simp only [List.getD_eq_getElem?_getD, hra, hia, hrb, hib, and_self]

theorem pairAt_butterfly_of_ne {a b a' b' : Nat} (haa : a' ≠ a) (hab : a' ≠ b) (hba : b' ≠ a) (hbb : b' ≠ b)
    (wr wi : Word) (x : ReIm) : pairAt a b (butterfly wr wi a' b' x) = pairAt a b x := by
  simp [pairAt, butterfly, haa, hab, hba, hbb]

/-- A butterfly's result depends on nothing but its pair. -/
theorem pairAt_butterfly_congr {a b : Nat} {x y : ReIm} (h : pairAt a b x = pairAt a b y) (wr wi : Word) :
    pairAt a b (butterfly wr wi a b x) = pairAt a b (butterfly wr wi a b y) := by
  obtain ⟨hra, hia, hrb, hib⟩ := pairAt_congr h
  simp only [pairAt, Prod.mk.injEq] at h
  obtain ⟨⟨hra?, hia?⟩, hrb?, hib?⟩ := h
  simp only [pairAt, butterfly, hra, hia, hrb, hib, List.getElem?_set', hra?, hia?, hrb?, hib?]

section Words
variable (wr wi : Word) {a b : Nat} (x : ReIm)

/-- The real part of the twiddled word at `b`. -/
def twiddledRe (b : Nat) : Word := wrap32 (sext (fxmul wr (x.1.getD b 0)) - sext (fxmul wi (x.2.getD b 0)))

/-- The imaginary part of the twiddled word at `b`. -/
def twiddledIm (b : Nat) : Word := wrap32 (sext (fxmul wr (x.2.getD b 0)) + sext (fxmul wi (x.1.getD b 0)))

theorem butterfly_re_upper (hne : a ≠ b) (hb : b < x.1.length) :
    (butterfly wr wi a b x).1.getD b 0 = wrap32 (sext (x.1.getD a 0) / 2 - sext (twiddledRe wr wi x b)) := by
  simp [butterfly, twiddledRe, asr_eq, List.getD_eq_getElem?_getD, hne, hb]

theorem butterfly_im_upper (hne : a ≠ b) (hb : b < x.2.length) :
    (butterfly wr wi a b x).2.getD b 0 = wrap32 (sext (x.2.getD a 0) / 2 - sext (twiddledIm wr wi x b)) := by
  simp [butterfly, twiddledIm, asr_eq, List.getD_eq_getElem?_getD, hne, hb]

theorem butterfly_re_lower (ha : a < x.1.length) :
    (butterfly wr wi a b x).1.getD a 0 = wrap32 (sext (x.1.getD a 0) / 2 + sext (twiddledRe wr wi x b)) := by
  simp [butterfly, twiddledRe, asr_eq, List.getD_eq_getElem?_getD, ha]

theorem butterfly_im_lower (ha : a < x.2.length) :
    (butterfly wr wi a b x).2.getD a 0 = wrap32 (sext (x.2.getD a 0) / 2 + sext (twiddledIm wr wi x b)) := by
  simp [butterfly, twiddledIm, asr_eq, List.getD_eq_getElem?_getD, ha]

end Words

/-! ## One stage -/

/-- Whatever the order of a fold, what `read` sees at its end is what its own step makes of the start, when every other
step leaves it alone and its own step looks at nothing else. -/
theorem read_foldl_eq_read_step {α β γ : Type} (read : β → γ) (step : β → α → β) {l : List α} {i : α}
    (hnodup : l.Nodup) (hi : i ∈ l) (hother : ∀ j ∈ l, j ≠ i → ∀ y, read (step y j) = read y)
    (hown : ∀ y z, read y = read z → read (step y i) = read (step z i)) (x : β) :
    read (l.foldl step x) = read (step x i) := by
  have hskip (l' : List α) (hl' : ∀ j ∈ l', j ∈ l ∧ j ≠ i) (y : β) : read (l'.foldl step y) = read y := by
    induction l' generalizing y with
    | nil => rfl
    | cons j rest ih =>
      obtain ⟨hj, hne⟩ := hl' j List.mem_cons_self
      exact (ih (fun k hk => hl' k (List.mem_cons_of_mem j hk)) _).trans (hother j hj hne y)
  obtain ⟨before, after, rfl⟩ := List.append_of_mem hi
  have hfresh := List.nodup_middle.1 hnodup
  obtain ⟨hnotin, _⟩ := List.nodup_cons.1 hfresh
  rw [List.foldl_append, List.foldl_cons]
  calc read (after.foldl step (step (before.foldl step x) i))
      = read (step (before.foldl step x) i) :=
        hskip after (fun j hj => ⟨by simp [hj], fun h => hnotin (by simp [← h, hj])⟩) _
    _ = read (step x i) :=
        hown _ _ (hskip before (fun j hj => ⟨by simp [hj], fun h => hnotin (by simp [← h, hj])⟩) _)

theorem add_mul_inj {M m m' t t' : Nat} (hm : m < M) (hm' : m' < M) (h : m + t * M = m' + t' * M) :
    m = m' ∧ t = t' := by
  have hmod := congrArg (· % M) h
  simp only [Nat.add_mul_mod_self_right, Nat.mod_eq_of_lt hm, Nat.mod_eq_of_lt hm'] at hmod
  subst hmod
  exact ⟨rfl, Nat.eq_of_mul_eq_mul_right (by omega : 0 < M) (by omega)⟩

section Stage
variable {c : Config} {len m m' t t' : Nat}

/-- Two butterflies of one stage have no place in common. -/
theorem pairAt_butterfly_of_other (hm : m < len) (hm' : m' < len) (h : m' ≠ m ∨ t' ≠ t) (wr wi : Word) (x : ReIm) :
    pairAt (m + t * (2 * len)) (m + t * (2 * len) + len)
        (butterfly wr wi (m' + t' * (2 * len)) (m' + t' * (2 * len) + len) x) =
      pairAt (m + t * (2 * len)) (m + t * (2 * len) + len) x := by
  have hupper (i u : Nat) : i + u * (2 * len) + len = i + len + u * (2 * len) := by omega
  have hlow (i : Nat) (hi : i < len) : i < 2 * len := by omega
  have hhigh (i : Nat) (hi : i < len) : i + len < 2 * len := by omega
  rw [hupper, hupper]
  refine pairAt_butterfly_of_ne (fun heq => ?_) (fun heq => ?_) (fun heq => ?_) (fun heq => ?_) wr wi x
  · have := add_mul_inj (hlow _ hm') (hlow _ hm) heq
    omega
  · have := add_mul_inj (hlow _ hm') (hhigh _ hm) heq
    omega
  · have := add_mul_inj (hhigh _ hm') (hlow _ hm) heq
    omega
  · have := add_mul_inj (hhigh _ hm') (hhigh _ hm) heq
    omega

theorem pairAt_fftGroup_of_ne (hm : m < len) (hm' : m' < len) (h : m' ≠ m) (j : Nat) (x : ReIm) :
    pairAt (m + t * (2 * len)) (m + t * (2 * len) + len) (fftGroup c len j m' x) =
      pairAt (m + t * (2 * len)) (m + t * (2 * len) + len) x :=
  foldl_keeps (fun y => pairAt _ _ y = pairAt _ _ x) _
    (fun y _ hy => (pairAt_butterfly_of_other hm hm' (.inl h) _ _ y).trans hy) _ _ rfl

theorem pairAt_fftGroup (hm : m < len) (ht : t < bufLen c / (2 * len)) (j : Nat) (x : ReIm) :
    pairAt (m + t * (2 * len)) (m + t * (2 * len) + len) (fftGroup c len j m x) =
      pairAt (m + t * (2 * len)) (m + t * (2 * len) + len)
        (butterfly (twiddleRe c j) (twiddleIm c j) (m + t * (2 * len)) (m + t * (2 * len) + len) x) :=
  read_foldl_eq_read_step (pairAt _ _) _ List.nodup_range (List.mem_range.2 ht)
    (fun _ _ hne y => pairAt_butterfly_of_other hm hm (.inr hne) _ _ y) (fun _ _ h => pairAt_butterfly_congr h _ _) x

theorem pairAt_fftStage {st : Nat} (hm : m < 2 ^ st) (ht : t < bufLen c / (2 * 2 ^ st)) (x : ReIm) :
    pairAt (m + t * (2 * 2 ^ st)) (m + t * (2 * 2 ^ st) + 2 ^ st) (fftStage c x st) =
      pairAt (m + t * (2 * 2 ^ st)) (m + t * (2 * 2 ^ st) + 2 ^ st)
        (butterfly (twiddleRe c (m * 2 ^ (c.log2n - 1 - st))) (twiddleIm c (m * 2 ^ (c.log2n - 1 - st)))
          (m + t * (2 * 2 ^ st)) (m + t * (2 * 2 ^ st) + 2 ^ st) x) := by
  have hgroup := pairAt_fftGroup hm ht (m * 2 ^ (c.log2n - 1 - st))
  refine (read_foldl_eq_read_step (pairAt _ _) _ List.nodup_range (List.mem_range.2 hm)
    (fun m' hm' hne y => pairAt_fftGroup_of_ne hm (List.mem_range.1 hm') hne _ y) (fun y z h => ?_) x).trans (hgroup x)
  rw [hgroup, hgroup]
  exact pairAt_butterfly_congr h _ _

end Stage

/-- A stage in the terms of R128: the place `a` of a pair's lower half fixes its butterfly. -/
theorem fftStage_pair {c : Config} {st a : Nat} (hst : st < c.log2n) (ha : a < bufLen c)
    (hlow : a % (2 * 2 ^ st) < 2 ^ st) (x : ReIm) :
    a + 2 ^ st < bufLen c ∧
      pairAt a (a + 2 ^ st) (fftStage c x st) =
        pairAt a (a + 2 ^ st) (butterfly (twiddleRe c (a % (2 * 2 ^ st) * 2 ^ (c.log2n - 1 - st)))
          (twiddleIm c (a % (2 * 2 ^ st) * 2 ^ (c.log2n - 1 - st))) a (a + 2 ^ st) x) := by
  have hdvd : 2 * 2 ^ st ∣ bufLen c := by
    rw [← pow_succ', bufLen]
    exact pow_dvd_pow 2 hst
  have hplace : a % (2 * 2 ^ st) + a / (2 * 2 ^ st) * (2 * 2 ^ st) = a := Nat.mod_add_div' a _
  have hblock : a / (2 * 2 ^ st) < bufLen c / (2 * 2 ^ st) := Nat.div_lt_div_of_lt_of_dvd hdvd ha
  constructor
  · have hend : (a / (2 * 2 ^ st) + 1) * (2 * 2 ^ st) ≤ bufLen c := by
      calc (a / (2 * 2 ^ st) + 1) * (2 * 2 ^ st) ≤ bufLen c / (2 * 2 ^ st) * (2 * 2 ^ st) :=
            Nat.mul_le_mul_right _ hblock
        _ = bufLen c := Nat.div_mul_cancel hdvd
    rw [Nat.add_mul] at hend
    omega
  · have hpair := pairAt_fftStage hlow hblock x
    rwa [hplace] at hpair

/-! ## All stages -/

/-- The arrays after the first `st` stages. -/
def fftAfter (c : Config) (x : ReIm) (st : Nat) : ReIm := (List.range st).foldl (fftStage c) x

theorem fftAfter_succ (c : Config) (x : ReIm) (st : Nat) : fftAfter c x (st + 1) = fftStage c (fftAfter c x st) st := by
  rw [fftAfter, List.range_succ, List.foldl_append]
  rfl

theorem fftAfter_length (c : Config) (x : ReIm) (st : Nat) :
    (fftAfter c x st).1.length = x.1.length ∧ (fftAfter c x st).2.length = x.2.length := by
  induction st with
  | zero => exact ⟨rfl, rfl⟩
  | succ st ih =>
    rw [fftAfter_succ]
    have hstage := fftStage_length c (fftAfter c x st) st
    omega

/-- The arrays stage S4 starts with. -/
def fftInput (s : State) : ReIm := (s.mem.words .fr (bufLen s.cfg), s.mem.words .fi (bufLen s.cfg))

theorem s4Butterflies_word_fr (s : State) (k : Nat) :
    (s4Butterflies s).mem.word .fr k = (fftAfter s.cfg (fftInput s) s.cfg.log2n).1.getD k 0 := by
  rw [s4Butterflies_mem, word_fill_ne _ _ _ (by decide), word_fill]
  rfl

theorem s4Butterflies_word_fi (s : State) (k : Nat) :
    (s4Butterflies s).mem.word .fi k = (fftAfter s.cfg (fftInput s) s.cfg.log2n).2.getD k 0 := by
  rw [s4Butterflies_mem, word_fill]
  rfl

theorem twiddleRe_eq (c : Config) (j : Nat) : twiddleRe c j = BitVec.ofInt 32 (sineAt c (j + bufLen c / 4) / 2) := by
  rw [twiddleRe, asr_eq]
  rfl

theorem twiddleIm_eq (c : Config) (j : Nat) : twiddleIm c j = BitVec.ofInt 32 (-sineAt c j / 2) := by
  rw [twiddleIm, asr_eq]
  rfl

/-- Settles O15: the arrays between the stages are those of the run, and each stage makes of a pair its butterfly. -/
theorem fftStagesAreButterfliesOfWholePairs : Obligations.FftStagesAreButterfliesOfWholePairs := by
  intro s
  refine ⟨fftAfter s.cfg (fftInput s), rfl, fun st hst a ha hlow => ?pair,
    fun k _ => ⟨s4Butterflies_word_fr s k, s4Butterflies_word_fi s k⟩,
    fun sp hfr hfi => s4Butterflies_word_ne s hfr hfi, s4Butterflies_bank s, rfl⟩
  intro b j wr wi re im tr ti
  have hpos : 0 < 2 ^ st := by positivity
  obtain ⟨hb, hpair⟩ := fftStage_pair hst ha hlow (fftAfter s.cfg (fftInput s) st)
  obtain ⟨hra, hia, hrb, hib⟩ := pairAt_congr hpair
  obtain ⟨hlenRe, hlenIm⟩ : (fftAfter s.cfg (fftInput s) st).1.length = bufLen s.cfg ∧
      (fftAfter s.cfg (fftInput s) st).2.length = bufLen s.cfg := by
    simpa [fftInput] using fftAfter_length s.cfg (fftInput s) st
  have hwr : twiddleRe s.cfg j = wr := twiddleRe_eq s.cfg j
  have hwi : twiddleIm s.cfg j = wi := twiddleIm_eq s.cfg j
  rw [fftAfter_succ]
  refine ⟨hb, hrb.trans ?_, hib.trans ?_, hra.trans ?_, hia.trans ?_⟩
  all_goals rw [hwr, hwi]
  · exact butterfly_re_upper wr wi _ (by omega) (by omega)
  · exact butterfly_im_upper wr wi _ (by omega) (by omega)
  · exact butterfly_re_lower wr wi _ (by omega)
  · exact butterfly_im_lower wr wi _ (by omega)

end Sys2Proof.Machine
end

section
/-!
Stages S5 and S7 of the estimator (41_estimate.md sections 6 and 8): the peak scan and the interpolation.
-/
namespace Sys2Proof.Machine

/-! ## S5: the scan -/

/-- A bin above both its neighbours and above 0. -/
def LocalMax (v : Nat → Int) (k : Nat) : Prop := v (k - 1) < v k ∧ v (k + 1) < v k ∧ 0 < v k

/-- `best` is the lowest of the bins `1 .. n` that hold the largest local maximum. -/
def IsPeak (v : Nat → Int) (n best : Nat) : Prop :=
  (1 ≤ best ∧ best ≤ n) ∧ LocalMax v best ∧
    ∀ k, 1 ≤ k → k ≤ n → LocalMax v k → v k ≤ v best ∧ (v k = v best → best ≤ k)

/-- What the scan has found after the bins `1 .. n`. -/
def ScanFound (v : Nat → Int) (n : Nat) (acc : Int × Nat) : Prop :=
  (acc = (0, 0) ∧ ∀ k, 1 ≤ k → k ≤ n → ¬LocalMax v k) ∨ (acc.1 = v acc.2 ∧ IsPeak v n acc.2)

theorem scanFound_peakStep {v : Nat → Int} {n : Nat} {acc : Int × Nat} (h : ScanFound v n acc) :
    ScanFound v (n + 1) (peakStep v acc (n + 1)) := by
  unfold peakStep
  split_ifs with htest
  case pos =>
    obtain ⟨hleft, hright, habove⟩ := htest
    have hpos : 0 < v (n + 1) := by
      rcases h with ⟨rfl, _⟩ | ⟨hval, _, ⟨_, _, hpos⟩, _⟩
      · exact habove
      · omega
    refine .inr ⟨rfl, ⟨by omega, le_rfl⟩, ⟨hleft, hright, hpos⟩, fun k hk hkn hmax => ?_⟩
    rcases Nat.lt_or_ge n k with hlast | hearlier
    · obtain rfl : k = n + 1 := by omega
      exact ⟨le_rfl, fun _ => le_rfl⟩
    · rcases h with ⟨_, hnone⟩ | ⟨hval, _, _, hbest⟩
      · exact absurd hmax (hnone k hk hearlier)
      · obtain ⟨hle, _⟩ := hbest k hk hearlier hmax
        have hlt : v k < v (n + 1) := by omega
        exact ⟨hlt.le, fun heq => absurd heq hlt.ne⟩
  case neg =>
    have hlower (hmax : LocalMax v (n + 1)) : v (n + 1) ≤ acc.1 := by
      obtain ⟨hleft, hright, _⟩ := hmax
      by_contra habove
      exact htest ⟨hleft, hright, by omega⟩
    rcases h with ⟨rfl, hnone⟩ | ⟨hval, ⟨hlow, hhigh⟩, hpeak, hbest⟩
    · refine .inl ⟨rfl, fun k hk hkn hmax => ?_⟩
      rcases Nat.lt_or_ge n k with hlast | hearlier
      · obtain rfl : k = n + 1 := by omega
        have hle := hlower hmax
        obtain ⟨_, _, hpos⟩ := hmax
        exact absurd hle (not_le.2 hpos)
      · exact hnone k hk hearlier hmax
    · refine .inr ⟨hval, ⟨hlow, by omega⟩, hpeak, fun k hk hkn hmax => ?_⟩
      rcases Nat.lt_or_ge n k with hlast | hearlier
      · obtain rfl : k = n + 1 := by omega
        have hle := hlower hmax
        exact ⟨by omega, fun _ => by omega⟩
      · exact hbest k hk hearlier hmax

theorem scanFound_foldl (v : Nat → Int) (n : Nat) : ScanFound v n ((List.range' 1 n).foldl (peakStep v) (0, 0)) := by
  induction n with
  | zero => exact .inl ⟨rfl, fun k hk hkn => by omega⟩
  | succ n ih =>
    rw [List.range'_1_concat, List.foldl_append, Nat.add_comm 1 n]
    exact scanFound_peakStep ih

theorem scanFound_findPeak (c : Config) (v : Nat → Int) : ScanFound v (bufLen c / 2 - 1) (findPeak c v) :=
  scanFound_foldl v _

/-- Settles O17: what the scan has found after its last bin is the peak or that there is none, and the bin fits
PEAKBIN. -/
theorem peakIsTheLargestStrictLocalMaximum : Obligations.PeakIsTheLargestStrictLocalMaximum := by
  intro s hlog t v candidate
  have hcandidate (k : Nat) : candidate k ↔ 1 ≤ k ∧ k ≤ bufLen s.cfg / 2 - 1 ∧ LocalMax v k := Iff.rfl
  have hbin : t.peakbin = BitVec.ofNat 32 (findPeak s.cfg v).2 := s5Peak_peakbin s
  have hmag : t.peakmag = wrap32 (findPeak s.cfg v).1 := s5Peak_peakmag s
  rcases scanFound_findPeak s.cfg v with ⟨hzero, hnone⟩ | ⟨hval, ⟨hlow, hhigh⟩, hpeak, hbest⟩
  · rw [hzero] at hbin hmag
    refine ⟨fun _ => ⟨hbin, hmag⟩, fun ⟨k, hk⟩ => ?_, rfl⟩
    obtain ⟨hk1, hkn, hmax⟩ := (hcandidate k).1 hk
    exact absurd hmax (hnone k hk1 hkn)
  · have hfits : bufLen s.cfg ≤ 2 ^ 15 := Nat.pow_le_pow_right two_pos hlog
    have hnat : t.peakbin.toNat = (findPeak s.cfg v).2 := by
      rw [hbin, BitVec.toNat_ofNat, Nat.mod_eq_of_lt (by omega)]
    have hpeakCandidate : candidate (findPeak s.cfg v).2 := (hcandidate _).2 ⟨hlow, hhigh, hpeak⟩
    rw [hnat]
    refine ⟨fun h => absurd hpeakCandidate (h _), fun _ => ⟨hpeakCandidate, ?_, fun k hk => ?_⟩, rfl⟩
    · rw [hmag, hval]
      exact wrap32_sext _
    · obtain ⟨hk1, hkn, hmax⟩ := (hcandidate k).1 hk
      exact hbest k hk1 hkn hmax

/-! ## S7: the interpolation -/

/-- The denominator of the interpolation (R136). -/
def interpDen (left peak right : Int) : Word := BitVec.ofInt 32 (2 * (left + right - 2 * peak))

theorem interpolate_of_den_eq {left peak right : Int} (h : interpDen left peak right = 0) (c : Config) (bin : Nat) :
    interpolate c bin left peak right = none := by
  unfold interpolate
  rw [fxdiv_eq_none.2 (show wrap32 (2 * (left + right - 2 * peak)) = 0 from h)]

theorem wrap32_binHz (c : Config) : wrap32 (binHz c) = BitVec.ofNat 32 (c.sampleRateHz * 2 ^ (15 - c.log2n)) :=
  BitVec.ofInt_natCast 32 _

theorem interpolate_of_den_ne {left peak right : Int} (h : interpDen left peak right ≠ 0) (c : Config) (bin : Nat) :
    interpolate c bin left peak right =
      some (fxmul (wrap32 (sext (i2fx bin) +
        sext (BitVec.ofInt 32 (((wrap32 (left - right)).toInt * 2 ^ 15).tdiv (interpDen left peak right).toInt))))
        (wrap32 (binHz c))) := by
  unfold interpolate
  rw [fxdiv_of_ne (show wrap32 (2 * (left + right - 2 * peak)) ≠ 0 from h)]
  rfl

/-- Settles O59: the two equations of the interpolation, at the three magnitudes S7 reads. -/
theorem interpolationReadsThePeakAndItsNeighbours : Obligations.InterpolationReadsThePeakAndItsNeighbours := by
  intro s b left peak right num den delta pos width
  refine ⟨fun hden => interpolate_of_den_eq (left := left) (peak := peak) (right := right) hden s.cfg b,
    fun hden => ?_⟩
  refine (interpolate_of_den_ne (left := left) (peak := peak) (right := right) hden s.cfg b).trans ?_
  rw [fxmul_eq, i2fx_eq, wrap32_binHz]
  rfl

end Sys2Proof.Machine
end

section
/-!
The command ESTIMATE (41_estimate.md sections 1, 2 and 7): the exit without a buffer and the three exits of a pass.
-/
namespace Sys2Proof.Machine

/-! ## Without a buffer -/

theorem exec_estimate_noBuffer {s : State} (h : s.ready = false) :
    exec .estimate s = .next { s with resl := noData, rkind := rkindNoData } := by
  rcases exec_estimate_cases s with ⟨_, hexec⟩ | ⟨hready, _⟩
  · exact hexec
  · rw [h] at hready
    cases hready

/-- Settles O11. -/
theorem estimateWithoutBufferReturnsNoData : Obligations.EstimateWithoutBufferReturnsNoData :=
  fun _ h => exec_estimate_noBuffer h

/-! ## The three exits of a pass -/

section Exits
variable {s : State}

theorem exec_estimate_lowSignal (hready : s.ready = true) (hlow : sext (passToPeak s).peakmag < s.cfg.noiseFloor) :
    exec .estimate s = .next { passToPeak s with est := lowSig, resl := lowSig, rkind := rkindLowSig } := by
  rcases exec_estimate_cases s with ⟨hnot, _⟩ | ⟨_, ⟨_, hexec⟩ | ⟨hge, _⟩ | ⟨hge, _⟩⟩
  · rw [hready] at hnot
    cases hnot
  · exact hexec
  · omega
  · omega

/-- In a legal state the smoother completes, so a pass at or above the floor ends with DIVZ or with a frequency. -/
theorem exec_estimate_aboveFloor (hinv : Inv s) (hready : s.ready = true)
    (hge : (s.cfg.noiseFloor : Int) ≤ sext (passToPeak s).peakmag) :
    (s7Interp (passToPeak s) = none ∧ exec .estimate s = .next (raise .divz (passToPeak s))) ∨
      ∃ f u, s7Interp (passToPeak s) = some f ∧ smooth f { passToPeak s with est := f } = .ok u ∧
        exec .estimate s = .next { u with resl := u.ravg, rkind := rkindFreq } := by
  obtain ⟨houtcnt, hcursor, _⟩ := hinv.smoother
  rcases exec_estimate_cases s with ⟨hnot, _⟩ | ⟨_, ⟨hlow, _⟩ | ⟨_, hdivz⟩ | ⟨_, f, hf, ⟨u, hu, hexec⟩ | ⟨e, he, _⟩⟩⟩
  · rw [hready] at hnot
    cases hnot
  · omega
  · exact .inl hdivz
  · exact .inr ⟨f, u, hf, hu, hexec⟩
  · obtain ⟨u, hu⟩ := smooth_completes f (s := { passToPeak s with est := f }) (by simpa using houtcnt)
      (by simpa using hcursor)
    rw [hu] at he
    cases he

end Exits

/-! ## What every exit keeps of the pass -/

/-- `t` is `p` but for the items an exit may write: the result, the smoother's items with HIST and SIDE, and what a fault
changes. -/
structure KeepsPass (p t : State) : Prop where
  frame : t = { p with
    resl := t.resl, rkind := t.rkind, est := t.est, mem := t.mem,
    ravg := t.ravg, rdev := t.rdev, cursor := t.cursor, outcnt := t.outcnt,
    fcode := t.fcode, fatal := t.fatal, beatArmed := t.beatArmed, toffArmed := t.toffArmed, toneOn := t.toneOn }
  bank : ∀ b, t.mem.bank b = p.mem.bank b
  word : ∀ sp, sp ≠ .hist → sp ≠ .side → ∀ k, t.mem.word sp k = p.mem.word sp k

theorem keepsPass_lowSignal (p : State) :
    KeepsPass p { p with est := lowSig, resl := lowSig, rkind := rkindLowSig } :=
  ⟨rfl, fun _ => rfl, fun _ _ _ _ => rfl⟩

theorem keepsPass_raise (p : State) : KeepsPass p (raise .divz p) :=
  ⟨rfl, fun _ => rfl, fun _ _ _ _ => rfl⟩

theorem keepsPass_smooth {f : Word} {p u : State} (h : smooth f { p with est := f } = .ok u) :
    KeepsPass p { u with resl := u.ravg, rkind := rkindFreq } := by
  obtain ⟨hbank, hword⟩ := smooth_mem h
  have hframe := smooth_frame h
  refine ⟨?_, hbank, hword⟩
  rw [hframe]

theorem bankWord_congr {s t : State} {b : Bool} (hbank : t.mem.bank b = s.mem.bank b) (hresets : t.resets = s.resets)
    (k : Nat) : bankWord t b k = bankWord s b k := by
  rw [bankWord, bankWord, hbank, hresets]

theorem smooth_est {f : Word} {s t : State} (h : smooth f s = .ok t) : t.est = s.est := by
  rw [smooth_frame h]

/-- Settles O18: the low-signal exit is the state of the pass with its three items, and a peak at the floor takes the
smoother's exit. -/
theorem lowSignalPassLeavesTheSmoother : Obligations.LowSignalPassLeavesTheSmoother := by
  refine ⟨fun s hready hlow => ⟨_, exec_estimate_lowSignal hready hlow, rfl, rfl, rfl, passToPeak_ready s, ?_⟩,
    fun s f hinv hready heq hinterp => ?_⟩
  · have hspace (sp : RamSpace) (hfr : sp ≠ .fr) (hfi : sp ≠ .fi) (k : Nat) :
        (passToPeak s).mem.word sp k = s.mem.word sp k := passToPeak_word_ne s hfr hfi k
    have hfront (k : Nat) : bankWord (passToPeak s) (!s.back) k = bankWord s (!s.back) k :=
      bankWord_congr ((passToPeak_bank s _).trans (s1Ingest_bank_front s)) (passToPeak_resets s) k
    exact ⟨hspace .hist (by decide) (by decide), hspace .side (by decide) (by decide),
      hspace .lut (by decide) (by decide), hfront, rfl⟩
  · rcases exec_estimate_aboveFloor hinv hready heq.ge with ⟨hnone, _⟩ | ⟨f', u, hsome, hsmooth, hexec⟩
    · rw [hinterp] at hnone
      cases hnone
    · obtain rfl : f = f' := Option.some.inj (hinterp.symm.trans hsome)
      exact ⟨_, hexec, rfl, smooth_est hsmooth⟩

/-- Every pass of a legal state ends in one of its exits, and each keeps what the stages up to the peak found. -/
theorem exec_estimate_exits {s : State} (hinv : Inv s) (hready : s.ready = true) :
    ∃ t, exec .estimate s = .next t ∧ KeepsPass (passToPeak s) t ∧
      (((passToPeak s).peakmag.toInt < s.cfg.noiseFloor ∧
          t = { passToPeak s with est := lowSig, resl := lowSig, rkind := rkindLowSig }) ∨
        (s.cfg.noiseFloor ≤ (passToPeak s).peakmag.toInt ∧ s7Interp (passToPeak s) = none ∧
          t = raise .divz (passToPeak s)) ∨
        (s.cfg.noiseFloor ≤ (passToPeak s).peakmag.toInt ∧ ∃ f u, s7Interp (passToPeak s) = some f ∧
          smooth f { passToPeak s with est := f } = .ok u ∧ t = { u with resl := u.ravg, rkind := rkindFreq })) := by
  rcases lt_or_ge (passToPeak s).peakmag.toInt s.cfg.noiseFloor with hlow | hge
  · exact ⟨_, exec_estimate_lowSignal hready hlow, keepsPass_lowSignal _, .inl ⟨hlow, rfl⟩⟩
  · rcases exec_estimate_aboveFloor hinv hready hge with ⟨hnone, hexec⟩ | ⟨f, u, hsome, hsmooth, hexec⟩
    · exact ⟨_, hexec, keepsPass_raise _, .inr (.inl ⟨hge, hnone, rfl⟩)⟩
    · exact ⟨_, hexec, keepsPass_smooth hsmooth, .inr (.inr ⟨hge, f, u, hsome, hsmooth, rfl⟩)⟩

/-- Settles O19: the exits are those of the pass, and what they keep of it gives every other clause. -/
theorem estimatePassTakesOneOfThreeExits : Obligations.EstimatePassTakesOneOfThreeExits := by
  refine ⟨fun s hready => exec_estimate_noBuffer hready, fun s hinv hready => ?_⟩
  obtain ⟨t, hexec, ⟨hframe, hbank, hword⟩, hexits⟩ := exec_estimate_exits hinv hready
  refine ⟨t, hexec, ?ready, ?errcnt, ?samperr, ?dcmag, ?peakbin, ?peakmag, fun k => ⟨?fr, ?fi, ?lut⟩, fun b k => ?banks,
    hexits, ?frame⟩
  case ready => rw [hframe]; exact passToPeak_ready s
  case errcnt => rw [hframe]; exact passToPeak_errcnt s
  case samperr => rw [hframe]; exact passToPeak_samperr s
  case dcmag => rw [hframe]; rfl
  case peakbin => rw [hframe]; rfl
  case peakmag => rw [hframe]; rfl
  case fr => exact hword .fr (by decide) (by decide) k
  case fi => exact hword .fi (by decide) (by decide) k
  case lut =>
    exact (hword .lut (by decide) (by decide) k).trans (passToPeak_word_ne s (by decide) (by decide) k)
  case banks =>
    refine bankWord_congr ((hbank b).trans (passToPeak_bank s b)) ?_ k
    rw [hframe]
    exact passToPeak_resets s
  case frame => rw [hframe]; rfl

end Sys2Proof.Machine
end

section
/-!
The smoother (42_smoother.md): the two outlier paths of one call, and the average RECOMPUTE leaves.
-/
namespace Sys2Proof.Machine

/-! ## An outlier below the threshold -/

theorem smooth_below_threshold {f : Word} {s : State} (hout : isOutlier f s) (hcount : s.outcnt + 1 < s.cfg.outlierThresh) :
    ∃ m, Memory.store s.cfg s.mem .side s.outcnt f = .ok m ∧ smooth f s = .ok { s with mem := m, outcnt := s.outcnt + 1 } := by
  rcases smooth_cases f s with ⟨_, _, hstash⟩ | ⟨_, heq, _⟩ | ⟨hin, _⟩ | ⟨_, hfull, _⟩ | ⟨hin, _⟩
  · exact hstash
  · omega
  · exact absurd hout hin
  · omega
  · exact absurd hout hin

theorem store_word_same {c : Config} {m m' : Memory} {sp : RamSpace} {i : Nat} {v : Word}
    (h : Memory.store c m sp i v = .ok m') : m'.word sp i = v :=
  (store_word h sp i).trans (if_pos ⟨rfl, rfl⟩)

theorem store_word_other {c : Config} {m m' : Memory} {sp sp' : RamSpace} {i k : Nat} {v : Word}
    (h : Memory.store c m sp i v = .ok m') (hne : sp' ≠ sp ∨ k ≠ i) : m'.word sp' k = m.word sp' k :=
  (store_word h sp' k).trans (if_neg (not_and_or.2 hne))

/-- Settles O21: the call is the checked write of SIDE[OUTCNT] and the count, and the write's rules say the rest. -/
theorem outlierBelowThresholdIsOnlyStashed : Obligations.OutlierBelowThresholdIsOnlyStashed := by
  intro f s hout hcount
  obtain ⟨m, hstore, hsmooth⟩ := smooth_below_threshold hout hcount
  exact ⟨_, hsmooth, rfl, store_word_same hstore, fun _ _ => store_word_other hstore, store_bank hstore⟩

/-! ## The regime change -/

theorem smooth_at_threshold {f : Word} {s : State} (hout : isOutlier f s) (hcount : s.outcnt + 1 = s.cfg.outlierThresh) :
    ∃ m, Memory.store s.cfg s.mem .side s.outcnt f = .ok m ∧
      smooth f s = .ok (regimeChange { s with mem := m, outcnt := s.outcnt + 1 }) := by
  rcases smooth_cases f s with ⟨_, hlt, _⟩ | ⟨_, _, hchange⟩ | ⟨hin, _⟩ | ⟨_, hfull, _⟩ | ⟨hin, _⟩
  · omega
  · exact hchange
  · exact absurd hout hin
  · omega
  · exact absurd hout hin

theorem regimeChange_word_ne (s : State) {sp : RamSpace} (hsp : sp ≠ .hist) (k : Nat) :
    (regimeChange s).mem.word sp k = s.mem.word sp k := by
  rw [regimeChange_mem, word_fill_ne _ _ _ hsp]

theorem regimeChange_bank (s : State) (b : Bool) : (regimeChange s).mem.bank b = s.mem.bank b := by
  rw [regimeChange_mem, bank_fill]

theorem regimeChange_hist_adopted {s : State} {i : Nat} (hfit : s.cfg.outlierThresh ≤ s.cfg.rollingItems)
    (hi : i < s.cfg.outlierThresh) : (regimeChange s).mem.word .hist i = s.mem.word .side i := by
  rw [regimeChange_mem, word_fill_range, if_pos (hi.trans_le hfit), if_pos hi]

theorem regimeChange_hist_emptied {s : State} {i : Nat} (hi : s.cfg.outlierThresh ≤ i) :
    (regimeChange s).mem.word .hist i = 0 := by
  rw [regimeChange_mem, word_fill_range, if_neg hi.not_gt, ite_self]

/-- Settles O22: the call stashes the outlier, then changes the regime; each word is followed through the two. -/
theorem thresholdOutlierAdoptsTheSideBuffer : Obligations.ThresholdOutlierAdoptsTheSideBuffer := by
  intro f s hout hcount hfit
  obtain ⟨m, hstore, hsmooth⟩ := smooth_at_threshold hout hcount
  let u : State := { s with mem := m, outcnt := s.outcnt + 1 }
  have hadopted (i : Nat) (hi : i < s.cfg.outlierThresh) : (regimeChange u).mem.word .hist i = m.word .side i :=
    regimeChange_hist_adopted (s := u) hfit hi
  refine ⟨regimeChange u, hsmooth, fun i hi => ?older, ?newest, fun i => regimeChange_hist_emptied (s := u), ?stashed,
    fun sp k hsp hne => ?otherWords, fun b => ?banks, rfl⟩
  case older => exact (hadopted i (by omega)).trans (store_word_other hstore (.inr hi.ne))
  case newest => exact (hadopted s.outcnt (by omega)).trans (store_word_same hstore)
  case stashed => exact (regimeChange_word_ne u (by decide) _).trans (store_word_same hstore)
  case otherWords => exact (regimeChange_word_ne u hsp k).trans (store_word_other hstore hne)
  case banks => exact (regimeChange_bank u b).trans (store_bank hstore b)

/-! ## The truncated mean -/

section Mean
variable {ws : List Word} {lo hi : Int}

theorem sum_toInt_bounds (h : ∀ w ∈ ws, lo ≤ w.toInt ∧ w.toInt ≤ hi) :
    lo * ws.length ≤ (ws.map BitVec.toInt).sum ∧ (ws.map BitVec.toInt).sum ≤ hi * ws.length := by
  have hlo := List.card_nsmul_le_sum (ws.map BitVec.toInt) lo (List.forall_mem_map.2 fun w hw => (h w hw).1)
  have hhi := List.sum_le_card_nsmul (ws.map BitVec.toInt) hi (List.forall_mem_map.2 fun w hw => (h w hw).2)
  rw [List.length_map, nsmul_eq_mul, mul_comm] at hlo hhi
  exact ⟨hlo, hhi⟩

theorem tdiv_mean_bounds (hne : ws ≠ []) (h : ∀ w ∈ ws, lo ≤ w.toInt ∧ w.toInt ≤ hi) :
    lo ≤ (ws.map BitVec.toInt).sum.tdiv ws.length ∧ (ws.map BitVec.toInt).sum.tdiv ws.length ≤ hi := by
  have hpos : (0 : Int) < ws.length := Int.natCast_pos.2 (List.length_pos_iff.2 hne)
  obtain ⟨hlo, hhi⟩ := sum_toInt_bounds h
  constructor
  · exact (Int.mul_tdiv_cancel lo hpos.ne').symm.trans_le (Int.tdiv_le_tdiv hpos hlo)
  · exact (Int.tdiv_le_tdiv hpos hhi).trans_eq (Int.mul_tdiv_cancel hi hpos.ne')

theorem toInt_mem_range (w : Word) : -2147483648 ≤ w.toInt ∧ w.toInt ≤ 2147483647 :=
  ⟨sext_ge w, Int.le_of_lt_add_one (sext_lt w)⟩

/-- Fewer than 2^32 words of 31 bits and a sign sum to a signed 64-bit register (R158). -/
theorem abs_sum_toInt_lt (h : ws.length < 2 ^ 32) : |(ws.map BitVec.toInt).sum| < 2 ^ 63 := by
  obtain ⟨hlo, hhi⟩ := sum_toInt_bounds (ws := ws) fun w _ => toInt_mem_range w
  rw [abs_lt]
  omega

theorem meanOfFilled_of_empty (h : ws.filter (· ≠ 0) = []) : meanOfFilled ws = 0 := by
  rw [meanOfFilled, h, List.length_nil, if_pos rfl]

/-- The mean of words lies among them, so its narrowing loses nothing. -/
theorem toInt_meanOfFilled (h : ws.filter (· ≠ 0) ≠ []) :
    (meanOfFilled ws).toInt = ((ws.filter (· ≠ 0)).map BitVec.toInt).sum.tdiv (ws.filter (· ≠ 0)).length := by
  obtain ⟨hlo, hhi⟩ := tdiv_mean_bounds h fun w _ => toInt_mem_range w
  rw [meanOfFilled, if_neg (List.length_pos_iff.2 h).ne']
  exact sext_wrap32 hlo (Int.lt_add_one_of_le hhi)

theorem meanOfFilled_bounds (hne : ws.filter (· ≠ 0) ≠ []) (h : ∀ w ∈ ws.filter (· ≠ 0), lo ≤ w.toInt ∧ w.toInt ≤ hi) :
    lo ≤ (meanOfFilled ws).toInt ∧ (meanOfFilled ws).toInt ≤ hi := by
  rw [toInt_meanOfFilled hne]
  exact tdiv_mean_bounds hne h

end Mean

/-! ## The deviance -/

theorem toInt_kDev : kDev.toInt = 9830 := by decide

/-- The fraction 9830 / 2^15 of a word that is not negative, which the product rounds down without a wrap. -/
theorem fxmul_kDev_bounds {a : Word} (h : 0 ≤ a.toInt) :
    10 * (fxmul a kDev).toInt ≤ 3 * a.toInt ∧ 24000 * a.toInt - 80000 * (fxmul a kDev).toInt < a.toInt + 80000 := by
  have hlt := (toInt_mem_range a).2
  have herror := fxmul_error_bounds (a := a) (b := kDev)
  rw [toInt_kDev] at herror
  obtain ⟨hge, hle⟩ := herror (by omega) (by omega)
  omega

/-- Settles O24: RAVG is the mean of the filled words, so the mean's rules give its value and bounds, and the deviance's
give RDEV. -/
theorem averageIsTheTruncatedMeanOfFilledSlots : Obligations.AverageIsTheTruncatedMeanOfFilledSlots := by
  intro s
  have hlength := List.length_filter_le (· ≠ 0) (s.mem.words .hist s.cfg.rollingItems)
  rw [words_length] at hlength
  refine ⟨meanOfFilled_of_empty, toInt_meanOfFilled, fun lo hi => meanOfFilled_bounds, fun hsize => ?noWrap, rfl,
    fxmul_kDev_bounds, rfl⟩
  case noWrap => exact abs_sum_toInt_lt (hlength.trans_lt hsize)

end Sys2Proof.Machine
end

section
/-!
The note mapper (43_note_mapper.md): what SETREF stores (R175), the value of a table entry (R176), and the neighbour
MAPFREQ chooses (R178).
-/
namespace Sys2Proof.Machine

/-! ## SETREF -/

/-- Settles O26: the fill of LUT gives each of its words and leaves the other spaces and the banks. -/
theorem setrefRebuildsTheWholeTable : Obligations.SetrefRebuildsTheWholeTable := by
  intro s
  refine ⟨_, exec_setref s, rfl, ?lutWords, ?otherSpaces, fun b => bank_fill ..⟩
  case lutWords =>
    intro i hi
    rw [setref_word, if_pos rfl, if_pos hi]
  case otherSpaces =>
    intro sp hsp k
    rw [setref_word, if_neg hsp]

/-! ## The value of a table entry

An index is `57 + 12 × o + s` with `s` below 12, and its entry is `ref × SEMI[s]` rounded at `15 − o` fraction bits. -/

/-- A scaled reference rounded to nearest at `n` fraction bits. -/
theorem lutEntry_octave {o : Int} {i s n : Nat} (hs : s < 12) (hi : (i : Int) = 57 + 12 * o + s)
    (hn : (15 - o).toNat = n) (ref : Nat) :
    lutEntry ref i = BitVec.ofNat 32 ((ref * semiAt s + 2 ^ (n - 1)) / 2 ^ n) := by
  have hoctave : floordiv ((i : Int) - 57) 12 = o := by unfold floordiv; omega
  have hsemitone : (floormod ((i : Int) - 57) 12).toNat = s := by unfold floormod; omega
  simp only [lutEntry, hoctave, hsemitone, hn]
  exact BitVec.ofInt_natCast ..

/-- Rounding at `n` fraction bits leaves a whole number. -/
theorem round_mul_two_pow {n : Nat} (hn : 1 ≤ n) (x : Nat) : (x * 2 ^ n + 2 ^ (n - 1)) / 2 ^ n = x := by
  have hhalf : 2 ^ (n - 1) < 2 ^ n := Nat.pow_lt_pow_right (by omega) (by omega)
  rw [Nat.add_comm, Nat.add_mul_div_right _ _ (Nat.two_pow_pos n), Nat.div_eq_of_lt hhalf, Nat.zero_add]

/-- An octave of the reference needs no rounding, `SEMI[0]` being `2^30`. -/
theorem lutEntry_exact_octave {o : Int} {i : Nat} (hlo : -15 ≤ o) (hhi : o ≤ 14) (hi : (i : Int) = 57 + 12 * o)
    (ref : Nat) : lutEntry ref i = BitVec.ofNat 32 (ref * 2 ^ (15 + o).toNat) := by
  have hscale : ref * semiAt 0 = ref * 2 ^ (15 + o).toNat * 2 ^ (15 - o).toNat := by
    rw [Nat.mul_assoc, ← pow_add, show (15 + o).toNat + (15 - o).toNat = 30 by omega]
    rfl
  rw [lutEntry_octave (o := o) (s := 0) (by omega) (by omega) rfl ref, hscale, round_mul_two_pow (by omega)]

/-- The table of reference 0 is zero throughout. -/
theorem lutEntry_zero {i : Nat} (hi : i < 120) : lutEntry 0 i = 0 := by
  have hround := round_mul_two_pow (n := (15 - ((i : Int) - 57) / 12).toNat) (by omega) 0
  rw [Nat.zero_mul] at hround
  rw [lutEntry_octave (o := ((i : Int) - 57) / 12) (s := (((i : Int) - 57) % 12).toNat) (by omega) (by omega) rfl,
    Nat.zero_mul, hround]
  rfl

theorem semiAt_lt : ∀ s < 12, semiAt s < 2 ^ 31 := by decide

/-! ### The reference 440

`440 × 2^((i − 57)/12) × 2^16` is the twelfth root of `(440 × 2^16)^12 × 2^i / 2^57`, so "within half a unit" is again a
pair of inequalities between whole numbers. -/

/-- The entries for 440 in whole numbers: the odd numbers beside an entry's double enclose the twelfth root. -/
theorem lutEntry_440_pow_twelve_bounds : ∀ i < 120, (lutEntry 440 i).toNat < 2 ^ 31 ∧
    (2 * (lutEntry 440 i).toNat - 1) ^ 12 * 2 ^ 57 ≤ (440 * 2 ^ 16) ^ 12 * 2 ^ i ∧
    (440 * 2 ^ 16) ^ 12 * 2 ^ i ≤ (2 * (lutEntry 440 i).toNat + 1) ^ 12 * 2 ^ 57 := by
  decide

/-- A whole number is within half a unit of `x` when the powers beside its double enclose that of `2 × x`. -/
theorem abs_natCast_sub_le_half {x : ℝ} {a n : ℕ} (hn : n ≠ 0) (hx : 0 ≤ x) (hlo : ((2 * a - 1 : ℕ) : ℝ) ^ n ≤ (2 * x) ^ n)
    (hhi : (2 * x) ^ n ≤ ((2 * a + 1 : ℕ) : ℝ) ^ n) : |(a : ℝ) - x| ≤ 1 / 2 := by
  have hbelow := (pow_le_pow_iff_left₀ (Nat.cast_nonneg _) (by linarith) hn).1 hlo
  have habove := (pow_le_pow_iff_left₀ (by linarith) (Nat.cast_nonneg _) hn).1 hhi
  have hpred : (2 * a : ℝ) ≤ ((2 * a - 1 : ℕ) : ℝ) + 1 := by
    exact_mod_cast (by omega : 2 * a ≤ 2 * a - 1 + 1)
  push_cast at habove
  rw [abs_le]
  constructor <;> linarith

theorem scaled_reference_pow_twelve (ref i : ℕ) :
    (2 * (ref * (2 : ℝ) ^ (((i : ℝ) - 57) / 12) * 2 ^ 15)) ^ 12 * 2 ^ 57 = (ref * 2 ^ 16) ^ 12 * 2 ^ i := by
  have hroot : ((2 : ℝ) ^ (((i : ℝ) - 57) / 12)) ^ 12 * 2 ^ 57 = 2 ^ i := by
    rw [← Real.rpow_mul_natCast (by norm_num), ← Real.rpow_natCast, ← Real.rpow_natCast, ← Real.rpow_add (by norm_num)]
    congr 1
    push_cast
    ring
  rw [← hroot]
  ring

theorem abs_lutEntry_440_sub_le_half {i : ℕ} (hi : i < 120) :
    |((lutEntry 440 i).toInt : ℝ) - 440 * (2 : ℝ) ^ (((i : ℝ) - 57) / 12) * 2 ^ 15| ≤ 1 / 2 := by
  obtain ⟨hfits, hlo, hhi⟩ := lutEntry_440_pow_twelve_bounds i hi
  have hpow := scaled_reference_pow_twelve 440 i
  have hscale : (0 : ℝ) < 2 ^ 57 := by positivity
  rw [BitVec.toInt_eq_toNat_of_lt (by omega), Int.cast_natCast]
  refine abs_natCast_sub_le_half (n := 12) (by norm_num) (by positivity) (le_of_mul_le_mul_right ?_ hscale)
    (le_of_mul_le_mul_right ?_ hscale)
  · exact (by exact_mod_cast hlo : _ ≤ _).trans_eq hpow.symm
  · exact hpow.trans_le (by exact_mod_cast hhi)

/-- Settles O27: the rounding formula of a semitone of an octave and its exact octaves; index 57 is octave 0, and the
whole-number bounds hold of each entry for 440. -/
theorem lutEntryRoundsTheScaledReference : Obligations.LutEntryRoundsTheScaledReference := by
  refine ⟨?rounded, ?octaves, fun ref i => ⟨?reference, lutEntry_zero⟩, ?productFits, ?nearest⟩
  case rounded =>
    intro ref i o s hlo hhi hs hi
    have hhalf : 2 ^ ((15 - o).toNat - 1) = 2 ^ (15 - o).toNat / 2 :=
      (Nat.pow_div (by omega) (by norm_num) : 2 ^ (15 - o).toNat / 2 ^ 1 = _).symm
    rw [lutEntry_octave hs hi rfl ref, hhalf]
  case octaves => exact fun ref i o hlo hhi hi => lutEntry_exact_octave (by omega) (by omega) hi ref
  case reference =>
    rw [i2fx_natCast]
    exact lutEntry_exact_octave (o := 0) (by omega) (by omega) rfl ref
  case productFits =>
    intro s ref hs
    calc ref.toNat * semiAt s < 2 ^ 32 * 2 ^ 31 := Nat.mul_lt_mul'' ref.isLt (semiAt_lt s hs)
      _ = 2 ^ 63 := by norm_num
  case nearest => exact fun i hi => abs_lutEntry_440_sub_le_half hi

/-! ## The choice of the neighbour -/

theorem exec_mapfreq_outOfRange {s : State} (h : firstAbove s s.opa = none ∨ firstAbove s s.opa = some 0 ∨
    ∃ j, firstAbove s s.opa = some (j + 1) ∧ sext (s.mem.word .lut j) ≤ 0) :
    exec .mapfreq s = .next { s with maprange := true } := by
  rcases exec_mapfreq_cases s with ⟨hexec, _⟩ | ⟨i, hi, hpos, _⟩
  · exact hexec
  · rcases h with hnone | hfirst | ⟨j, hj, hle⟩
    · cases hi.symm.trans hnone
    · cases hi.symm.trans hfirst
    · cases hi.symm.trans hj
      omega

/-- In range MAPFREQ does what the choice in the bracket gives. -/
theorem exec_mapfreq_inRange {s : State} {j : Nat} (hj : firstAbove s s.opa = some (j + 1))
    (hpos : 0 < sext (s.mem.word .lut j)) :
    (mapInBracket s.opa (s.mem.word .lut j) (s.mem.word .lut (j + 1)) j = none ∧
      exec .mapfreq s = .next (raise .divz s)) ∨
    ∃ n c, mapInBracket s.opa (s.mem.word .lut j) (s.mem.word .lut (j + 1)) j = some (n, c) ∧
      exec .mapfreq s = .next { s with note := BitVec.ofNat 32 n, cents := c, maprange := false } := by
  rcases exec_mapfreq_cases s with ⟨_, hnone | hfirst | ⟨i, hi, hle⟩⟩ | ⟨i, hi, _, hchoice⟩
  · cases hj.symm.trans hnone
  · cases hj.symm.trans hfirst
  · cases hj.symm.trans hi
    omega
  · cases hj.symm.trans hi
    exact hchoice

theorem exec_mapfreq_divz {s : State} {j : Nat} (hj : firstAbove s s.opa = some (j + 1))
    (hpos : 0 < sext (s.mem.word .lut j))
    (hmap : mapInBracket s.opa (s.mem.word .lut j) (s.mem.word .lut (j + 1)) j = none) :
    exec .mapfreq s = .next (raise .divz s) := by
  rcases exec_mapfreq_inRange hj hpos with ⟨_, hexec⟩ | ⟨n, c, hsome, _⟩
  · exact hexec
  · cases hmap.symm.trans hsome

theorem exec_mapfreq_note {s : State} {j n : Nat} {c : Word} (hj : firstAbove s s.opa = some (j + 1))
    (hpos : 0 < sext (s.mem.word .lut j))
    (hmap : mapInBracket s.opa (s.mem.word .lut j) (s.mem.word .lut (j + 1)) j = some (n, c)) :
    exec .mapfreq s = .next { s with note := BitVec.ofNat 32 n, cents := c, maprange := false } := by
  rcases exec_mapfreq_inRange hj hpos with ⟨hnone, _⟩ | ⟨n', c', hsome, hexec⟩
  · cases hmap.symm.trans hnone
  · cases hmap.symm.trans hsome
    exact hexec

/-! ### The choice inside a bracket -/

theorem centsOf_eq (d : Word) : centsOf d = (d.toInt * 100 + 16384) / 2 ^ 15 := asr_eq _ 15

/-- The log-width of a bracket, the divisor of both distances (R178). -/
def bracketSpan (lower upper : Word) : Word := wrap32 (sext (log2Fix upper) - sext (log2Fix lower))

/-- The distance from logarithm `a` up to logarithm `b` as a fraction of a log-width (R178). -/
def bracketFraction (a b span : Word) : Word :=
  BitVec.ofInt 32 (((BitVec.ofInt 32 (b.toInt - a.toInt)).toInt * 2 ^ 15).tdiv span.toInt)

section Bracket
variable {f lower upper : Word}

theorem mapInBracket_of_span_eq (h : bracketSpan lower upper = 0) (j : Nat) : mapInBracket f lower upper j = none := by
  rcases mapInBracket_cases f lower upper j with ⟨_, hmap⟩ | ⟨hne, _⟩
  · exact hmap
  · exact absurd (wrap32_sub_eq_zero.1 h) hne

/-- With a log-width the two distances are the fractions of it, and the smaller of them gives note and cents. -/
theorem mapInBracket_of_span_ne (h : bracketSpan lower upper ≠ 0) (j : Nat) :
    let fl := bracketFraction (log2Fix lower) (log2Fix f) (bracketSpan lower upper)
    let fu := bracketFraction (log2Fix f) (log2Fix upper) (bracketSpan lower upper)
    (fl.toInt ≤ fu.toInt ∧ mapInBracket f lower upper j = some (j, wrap32 (centsOf fl))) ∨
    (fu.toInt < fl.toInt ∧ mapInBracket f lower upper j = some (j + 1, wrap32 (-centsOf fu))) := by
  rcases mapInBracket_cases f lower upper j with ⟨heq, _⟩ | ⟨_, fl, fu, hfl, hfu, hmap⟩
  · exact absurd (wrap32_sub_eq_zero.2 heq) h
  · cases (fxdiv_of_ne h).symm.trans hfl
    cases (fxdiv_of_ne h).symm.trans hfu
    exact hmap

end Bracket

/-- Settles O31: the scan finds none, the first entry or the upper end of a bracket; in range the zero log-width and the
comparison of the two distances decide. -/
theorem mapfreqChoosesTheNearerNeighbour : Obligations.MapfreqChoosesTheNearerNeighbour := by
  intro s e
  refine ⟨fun hall => ?none, fun hlen hfirst => ?first, fun i hi hle habove => ?bracket⟩
  case none => exact exec_mapfreq_outOfRange (.inl (firstAbove_eq_none.2 hall))
  case first =>
    have hscan : firstAbove s s.opa = some 0 :=
      firstAbove_eq_some.2 ⟨hlen, hfirst, fun k hk => absurd hk (Nat.not_lt_zero k)⟩
    exact exec_mapfreq_outOfRange (.inr (.inl hscan))
  case bracket =>
    have hscan : firstAbove s s.opa = some (i + 1) :=
      firstAbove_eq_some.2 ⟨hi, habove, fun k hk => hle k (Nat.le_of_lt_succ hk)⟩
    refine ⟨fun hlow => exec_mapfreq_outOfRange (.inr (.inr ⟨i, hscan, hlow⟩)), fun hpos => ?_⟩
    refine ⟨fun hspan => ?zeroWidth, fun hspan hnear => ?lowerNearer, fun hspan hnear => ?upperNearer⟩
    case zeroWidth => exact exec_mapfreq_divz hscan hpos (mapInBracket_of_span_eq hspan i)
    case lowerNearer =>
      rcases mapInBracket_of_span_ne (f := s.opa) hspan i with ⟨_, hmap⟩ | ⟨hlt, _⟩
      · rw [exec_mapfreq_note hscan hpos hmap, centsOf_eq]
        rfl
      · exact absurd hlt (not_lt.2 hnear)
    case upperNearer =>
      rcases mapInBracket_of_span_ne (f := s.opa) hspan i with ⟨hge, _⟩ | ⟨_, hmap⟩
      · exact absurd hnear (not_lt.2 hge)
      · rw [exec_mapfreq_note hscan hpos hmap, centsOf_eq]
        rfl

end Sys2Proof.Machine
end

section
/-!
The beat scheduler: the interval of a tempo and selector, SETBEAT, and the Tick that fires the clock
(44_beat_scheduler.md).
-/
namespace Sys2Proof.Machine

/-! ## The interval -/

theorem clampBpm_eq_max_min (bpm : Int) : clampBpm bpm = (max 20 (min 300 bpm)).toNat := by
  unfold clampBpm
  split_ifs <;> omega

theorem clampBpm_natCast {bpm : Nat} (hlo : 20 ≤ bpm) (hhi : bpm ≤ 300) : clampBpm bpm = bpm := by
  rw [clampBpm_eq_max_min]
  omega

theorem beatDivisor_eq_getD {sel : Nat} (hlo : 1 ≤ sel) (hhi : sel ≤ 15) :
    beatDivisor sel = [0, 1, 1, 1, 1, 1, 1, 1, 1, 1, 1, 2, 3, 3, 4, 4].getD sel 0 := by
  interval_cases sel <;> rfl

theorem beatInterval_eq (bpm : Int) (sel : Nat) :
    beatInterval bpm sel = 60000 / (max 20 (min 300 bpm)).toNat / beatDivisor sel := by
  rw [← clampBpm_eq_max_min]
  rfl

theorem beatInterval_natCast {bpm : Nat} (hlo : 20 ≤ bpm) (hhi : bpm ≤ 300) (sel : Nat) :
    beatInterval bpm sel = 60000 / bpm / beatDivisor sel := by
  rw [beatInterval, clampBpm_natCast hlo hhi]
  rfl

/-- The fastest tempo with the largest divisor gives the lower end, the slowest with the smallest the upper (R193). -/
theorem beatInterval_range (bpm : Int) (sel : Nat) : 50 ≤ beatInterval bpm sel ∧ beatInterval bpm sel ≤ 3000 := by
  obtain ⟨hclo, hchi⟩ := clampBpm_range bpm
  obtain ⟨hdlo, hdhi⟩ := beatDivisor_range sel
  constructor
  · calc 50 = 60000 / 300 / 4 := by norm_num
      _ ≤ 60000 / clampBpm bpm / beatDivisor sel :=
        Nat.div_le_div (Nat.div_le_div_left hchi (by omega)) hdhi (by omega)
  · calc 60000 / clampBpm bpm / beatDivisor sel
      _ ≤ 60000 / 20 / 1 := Nat.div_le_div (Nat.div_le_div_left hclo (by omega)) hdlo (by omega)
      _ = 3000 := by norm_num

/-- A quotient of a quotient, scaled back by both divisors, falls short by less than their product. -/
theorem mul_div_div_bounds {b d : Nat} (hb : 0 < b) (hd : 0 < d) (a : Nat) :
    b * (d * (a / b / d)) ≤ a ∧ a < b * (d * (a / b / d) + d) := by
  rw [Nat.div_div_eq_div_mul, ← Nat.mul_add_one, ← mul_assoc, ← mul_assoc]
  exact ⟨Nat.mul_div_le a (b * d), Nat.lt_mul_div_succ a (Nat.mul_pos hb hd)⟩

/-- Settles O36: the range of every interval, its shortfall, and the two divisions of each row of the table. -/
theorem intervalStaysBetween50And3000 : Obligations.IntervalStaysBetween50And3000 := by
  refine ⟨beatInterval_range, ?divisions, ?shortfall, ?rowsToTen, ?rows⟩
  case divisions =>
    intro bpm sel hlo hhi hsel hsel'
    obtain ⟨k, rfl⟩ := Nat.exists_eq_add_of_le' hsel
    rw [beatInterval_natCast hlo hhi, beatDivisor_eq_getD hsel hsel', List.getD_cons_succ, Nat.add_sub_cancel]
  case shortfall =>
    intro bpm sel hlo hhi
    rw [beatInterval_natCast hlo hhi]
    obtain ⟨hle, hlt⟩ := mul_div_div_bounds (b := bpm) (by omega) (beatDivisor_range sel).1 60000
    exact ⟨hle, hlt.trans_le (Nat.mul_le_mul_left bpm (Nat.le_succ _))⟩
  case rowsToTen =>
    intro sel hlo hhi
    have hdiv : beatDivisor sel = 1 := by
      rw [beatDivisor_eq_getD hlo (by omega)]
      interval_cases sel <;> rfl
    rw [beatInterval_eq, hdiv]
    rfl
  case rows => decide

/-! ## SETBEAT -/

/-- Settles O35: the three selector ranges exclude each other, and the armed clock's interval is the quotient of R195. -/
theorem setbeatArmsTheClampedInterval : Obligations.SetbeatArmsTheClampedInterval := by
  intro s sel divisor bpm
  rcases exec_setbeat_cases s with ⟨hbad, hexec⟩ | ⟨hnone, hexec⟩ | ⟨hlo, hhi, hexec⟩
  · exact ⟨fun _ => hexec, fun h => by omega, fun _ h => by omega⟩
  · exact ⟨fun h => by omega, fun _ => hexec, fun h => by omega⟩
  · refine ⟨fun h => by omega, fun h => by omega, fun _ _ => ?_⟩
    have hinterval : beatInterval s.opa.toInt s.opb.toNat = 60000 / bpm / divisor := by
      rw [beatInterval_eq, beatDivisor_eq_getD hlo hhi]
    rw [hexec, hinterval]

/-! ## The Tick that fires -/

/-- What part (a) of a Tick leaves when the timer does not underflow (R197). -/
def afterToneOff (s : State) : State :=
  { s with
    toffCnt := if s.toffArmed = true then s.toffCnt - 1 else s.toffCnt
    toneOn := if s.toffArmed = true ∧ s.toffCnt = 1 then false else s.toneOn
    toffArmed := if s.toffCnt = 1 then false else s.toffArmed }

/-- What a firing that plays `kind` leaves (R198). -/
def afterFiring (kind : ToneKind) (s : State) : State :=
  { s with
    beatCnt := s.interval.toNat
    subbeat := (s.subbeat + 1) % patternLen s.cfg s.beatsel.toNat
    toneOn := if kind = .silent then s.toneOn else true
    toneHigh := if kind = .silent then s.toneHigh else decide (kind = .high)
    toffCnt := if kind = .silent then s.toffCnt else s.cfg.toneMs
    toffArmed := if kind = .silent then s.toffArmed else true }

theorem tickToneOff_ok {s : State} (h : s.toffArmed = true → 1 ≤ s.toffCnt) :
    tickToneOff s = .ok (afterToneOff s) := by
  unfold afterToneOff
  rcases tickToneOff_cases s with ⟨hoff, htick⟩ | ⟨hon, hcnt, htick⟩ | ⟨hon, hcnt, htick⟩ | ⟨hon, hcnt, _⟩
  · rw [htick]
    simp only [hoff, Bool.false_eq_true, false_and, if_false, ite_self]
    rw [← hoff]
  · rw [htick]
    simp [hon, hcnt]
  · have hne : s.toffCnt ≠ 1 := by omega
    rw [htick]
    simp [hon, hne]
  · have := h hon
    omega

theorem beatFire_ok {s : State} {kind : ToneKind}
    (h : (patternRow s.cfg s.beatsel.toNat)[s.subbeat]? = some kind) :
    beatFire s = .ok (afterFiring kind s) := by
  rcases beatFire_cases s with ⟨k, hk, hfire⟩ | ⟨hpast, _⟩
  · cases h.symm.trans hk
    rcases hfire with ⟨hsilent, hfire⟩ | ⟨htone, hfire⟩
    · rw [hfire]
      simp [afterFiring, hsilent, zext]
    · rw [hfire]
      simp [afterFiring, soundTone, htone, zext]
  · cases h.symm.trans (List.getElem?_eq_none hpast)

theorem tickBeat_fires {s : State} {kind : ToneKind} (harmed : s.beatArmed = true) (hcnt : s.beatCnt = 1)
    (hkind : (patternRow s.cfg s.beatsel.toNat)[s.subbeat]? = some kind) :
    tickBeat s = .ok (afterFiring kind s) := by
  rcases tickBeat_cases s with ⟨hoff, _⟩ | ⟨_, _, hfire⟩ | ⟨_, hge, _⟩ | ⟨_, hzero, _⟩
  · cases harmed.symm.trans hoff
  · exact hfire.trans (beatFire_ok (s := { s with beatCnt := 0 }) hkind)
  · omega
  · omega

theorem tickEvent_ok {s t u : State} (hrun : s.fatal = false) (htone : tickToneOff s = .ok t)
    (hbeat : tickBeat t = .ok u) : tickEvent s = .next u := by
  rcases tickEvent_cases s with ⟨hhalt, _⟩ | ⟨_, ⟨t', ht', hnext⟩ | ⟨e, he, _⟩⟩
  · cases hrun.symm.trans hhalt
  · cases htone.symm.trans ht'
    rcases hnext with ⟨u', hu', hnext⟩ | ⟨e, he, _⟩
    · cases hbeat.symm.trans hu'
      exact hnext
    · cases hbeat.symm.trans he
  · cases htone.symm.trans he

theorem tickEvent_fires {s : State} {kind : ToneKind} (hrun : s.fatal = false) (harmed : s.beatArmed = true)
    (hcnt : s.beatCnt = 1) (htimer : s.toffArmed = true → 1 ≤ s.toffCnt)
    (hkind : (patternRow s.cfg s.beatsel.toNat)[s.subbeat]? = some kind) :
    tickEvent s = .next (afterFiring kind (afterToneOff s)) :=
  tickEvent_ok hrun (tickToneOff_ok htimer) (tickBeat_fires (s := afterToneOff s) harmed hcnt hkind)

/-- Settles O38: the tone-off part runs before the firing, and a silent entry keeps what it left of the tone. -/
theorem firingPlaysThePatternEntry : Obligations.FiringPlaysThePatternEntry := by
  intro s rest kind hevents hrun harmed hcnt htimer hkind
  calc step s
    _ = tickEvent { s with events := rest } := step_event hevents
    _ = .next (afterFiring kind (afterToneOff { s with events := rest })) :=
      tickEvent_fires hrun harmed hcnt htimer hkind

end Sys2Proof.Machine
end

section
/-!
Faults and the halted unit (60_exceptions.md): which commands raise, with what state, and what a halted unit still takes.
-/
namespace Sys2Proof.Machine

/-! ## Where the commands raise (R226) -/

theorem issueCommand_of_not_decoded {v : Word} (h : ∀ i, decode v ≠ .ok i) (s : State) :
    issueCommand v s = .next (raise .illCmd s) := by
  have hne (i : Instr) : v ≠ encode i := by
    rintro rfl
    exact h i (decode_encode i)
  exact issueCommand_of_ne_encode hne s

/-- MAPFREQ raises on the state it was given: its other two outcomes keep FATAL. -/
theorem eq_raise_of_exec_mapfreq_fatal {s t : State} (hrun : s.fatal = false) (hexec : exec .mapfreq s = .next t)
    (hfatal : t.fatal = true) : t = raise .divz s := by
  rcases exec_mapfreq_cases s with ⟨hrange, _⟩ | ⟨j, _, _, ⟨_, hdivz⟩ | ⟨n, c, _, hnote⟩⟩
  · cases hexec.symm.trans hrange
    cases hrun.symm.trans hfatal
  · cases hexec.symm.trans hdivz
    rfl
  · cases hexec.symm.trans hnote
    cases hrun.symm.trans hfatal

/-- ESTIMATE raises on the state that stages S1 to S5 leave, whatever the smoother holds. -/
theorem exec_estimate_divz {s : State} (hready : s.ready = true)
    (hge : (s.cfg.noiseFloor : Int) ≤ sext (passToPeak s).peakmag) (hnone : s7Interp (passToPeak s) = none) :
    exec .estimate s = .next (raise .divz (passToPeak s)) := by
  rcases exec_estimate_cases s with ⟨hnot, _⟩ | ⟨_, ⟨hlow, _⟩ | ⟨_, _, hexec⟩ | ⟨_, f, hsome, _⟩⟩
  · cases hready.symm.trans hnot
  · omega
  · exact hexec
  · cases hnone.symm.trans hsome

/-- Settles O41: the three record updates are fault entry's own, and each command raises where its outcomes say. -/
theorem faultEntryHaltsAndSilences : Obligations.FaultEntryHaltsAndSilences := by
  intro s
  refine ⟨rfl, rfl, rfl, ?fxdiv, ?setbeat, ?illegal, ?mapfreq, ?estimate⟩
  case fxdiv => exact (fxdivWritesTheTruncatedQuotient s).2
  case setbeat => exact (setbeatArmsTheClampedInterval s).1
  case illegal => exact fun v h => issueCommand_of_not_decoded h s
  case mapfreq => exact fun t => eq_raise_of_exec_mapfreq_fatal
  case estimate => exact exec_estimate_divz

/-! ## The halted unit (R227) -/

theorem tickEvent_halted {s : State} (h : s.fatal = true) : tickEvent s = .next s := by
  rcases tickEvent_cases s with ⟨_, htick⟩ | ⟨hrun, _⟩
  · exact htick
  · cases h.symm.trans hrun

/-- A halted unit has its tone-off timer cancelled, and the tone sounds only while that timer is armed (R206). -/
theorem toneOnOut_halted {s : State} (hinv : Inv s) (h : s.fatal = true) : toneOnOut s = false := by
  obtain ⟨_, _, _, _, harmed, _⟩ := hinv.beat
  obtain ⟨_, _, _, hcancelled, _⟩ := hinv.status
  calc s.toneOn
    _ = s.toffArmed := harmed.symm
    _ = false := hcancelled h

/-- Settles O42: the step runs the event, whose equation either asks for a running unit or does not look at FATAL. -/
theorem haltedUnitIgnoresWritesAndTicks : Obligations.HaltedUnitIgnoresWritesAndTicks := by
  intro s rest hfatal u
  refine ⟨?write, ?tick, ?read, ?acqDone, ?acqWrite, hfatal, fun hinv => toneOnOut_halted hinv hfatal⟩
  case write => exact fun r v he => (step_event he).trans (runEvent_hostWrite_halted (s := u) hfatal r v)
  case tick => exact fun he => (step_event he).trans (tickEvent_halted (s := u) hfatal)
  case read => exact fun r he => step_event he
  case acqDone => exact acqDoneExchangesTheBanks s rest
  case acqWrite =>
    intro k w hk he
    exact ⟨frontBankStore k w u, (step_event he).trans (runEvent_acqWrite_inside (s := u) hk w), rfl,
      bankWord_frontBankStore_same k w u⟩

end Sys2Proof.Machine
end

section
/-!
Decode against encode, and the step of a command word (30_encoding.md sections 1 and 3).
-/
namespace Sys2Proof

/-- Settles O3: the decoder reads each command's own word, and accepts no other word for it. -/
theorem decodeAcceptsExactlyTheEncodedCommands : Obligations.DecodeAcceptsExactlyTheEncodedCommands := by
  intro v i
  refine ⟨eq_encode_of_decode, ?_⟩
  rintro rfl
  exact decode_encode i

namespace Machine

/-- Settles O1: a write to CMD of a running unit issues the word, which runs the command it decodes to. -/
theorem stepRunsTheDecodedCommand : Obligations.StepRunsTheDecodedCommand := by
  intro s v i rest he hrun hdecode
  let u : State := { s with events := rest }
  calc step s
    _ = runEvent (.hostWrite 0 v) u := step_event he
    _ = issueCommand v u := runEvent_hostWrite_running (s := u) hrun .cmd v
    _ = exec i u := by rw [eq_encode_of_decode hdecode, issueCommand_encode]

end Machine
end Sys2Proof
end

section
/-!
Everything a command, an event and a step can do: one inductive case per outcome, so that a statement about every step
is a case split along these constructors.
-/
namespace Sys2Proof.Machine

/-! ## Commands -/

/-- `CommandOutcome s i t`: the command `i` completes on `s` and leaves `t`. -/
inductive CommandOutcome (s : State) : Instr → State → Prop
  | fxmul : CommandOutcome s .fxmul { s with resl := fxmul s.opa s.opb }
  | fxdivZero : s.opb = 0 → CommandOutcome s .fxdiv (raise .divz s)
  | fxdiv (q : Word) : CommandOutcome s .fxdiv { s with resl := q }
  | i2fx : CommandOutcome s .i2fx { s with resl := i2fx s.opa.toInt }
  | fx2f (hi lo : Word) : CommandOutcome s .fx2f { s with resh := hi, resl := lo }
  | noBuffer : CommandOutcome s .estimate { s with resl := noData, rkind := rkindNoData }
  | lowSignal :
      CommandOutcome s .estimate { passToPeak s with est := lowSig, resl := lowSig, rkind := rkindLowSig }
  | flatPeak : s.ready = true → (s.cfg.noiseFloor : Int) ≤ sext (passToPeak s).peakmag →
      s7Interp (passToPeak s) = none → CommandOutcome s .estimate (raise .divz (passToPeak s))
  | frequency (f : Word) (u : State) : smooth f { passToPeak s with est := f } = .ok u →
      CommandOutcome s .estimate { u with resl := u.ravg, rkind := rkindFreq }
  | outOfRange : CommandOutcome s .mapfreq { s with maprange := true }
  | zeroWidth (j : Nat) : firstAbove s s.opa = some (j + 1) → 0 < sext (s.mem.word .lut j) →
      mapInBracket s.opa (s.mem.word .lut j) (s.mem.word .lut (j + 1)) j = none →
      CommandOutcome s .mapfreq (raise .divz s)
  | note (j n : Nat) (c : Word) : firstAbove s s.opa = some (j + 1) → 0 < sext (s.mem.word .lut j) →
      mapInBracket s.opa (s.mem.word .lut j) (s.mem.word .lut (j + 1)) j = some (n, c) →
      CommandOutcome s .mapfreq { s with note := BitVec.ofNat 32 n, cents := c, maprange := false }
  | setref : CommandOutcome s .setref
      { s with mem := s.mem.fill .lut ((List.range (lutLen s.cfg)).map (lutEntry s.opa.toNat)) }
  | badSelector : 15 < s.opb.toNat → CommandOutcome s .setbeat (raise .badSubdiv s)
  | disarm : CommandOutcome s .setbeat
      { s with beatArmed := false, beatsel := 0, subbeat := 0, interval := 0, beatCnt := 0 }
  | arm : 1 ≤ s.opb.toNat → s.opb.toNat ≤ 15 → CommandOutcome s .setbeat { s with
      beatArmed := true
      beatsel := BitVec.ofNat 4 s.opb.toNat
      subbeat := 0
      interval := BitVec.ofNat 32 (beatInterval s.opa.toInt s.opb.toNat)
      beatCnt := beatInterval s.opa.toInt s.opb.toNat }

/-- The one next state of a command whose outcome is known. -/
theorem next_inj {s t : State} {o : Host.Outcome State Fault Refusal} (hs : o = .next s) (ht : o = .next t) :
    s = t := by
  cases hs.symm.trans ht
  rfl

theorem commandOutcome_fxdiv {s t : State} (h : exec .fxdiv s = .next t) : CommandOutcome s .fxdiv t := by
  rcases exec_fxdiv_cases s with ⟨hzero, hexec⟩ | ⟨_, q, _, hexec⟩
  · exact next_inj hexec h ▸ .fxdivZero hzero
  · exact next_inj hexec h ▸ .fxdiv q

theorem commandOutcome_estimate {s t : State} (h : exec .estimate s = .next t) : CommandOutcome s .estimate t := by
  rcases exec_estimate_cases s with
    ⟨_, hexec⟩ | ⟨hready, ⟨_, hexec⟩ | ⟨hge, hnone, hexec⟩ | ⟨_, f, _, ⟨u, hu, hexec⟩ | ⟨e, _, hexec⟩⟩⟩
  · exact next_inj hexec h ▸ .noBuffer
  · exact next_inj hexec h ▸ .lowSignal
  · exact next_inj hexec h ▸ .flatPeak hready hge hnone
  · exact next_inj hexec h ▸ .frequency f u hu
  · cases hexec.symm.trans h

theorem commandOutcome_mapfreq {s t : State} (h : exec .mapfreq s = .next t) : CommandOutcome s .mapfreq t := by
  rcases exec_mapfreq_cases s with ⟨hexec, _⟩ | ⟨j, hj, hpos, ⟨hmap, hexec⟩ | ⟨n, c, hmap, hexec⟩⟩
  · exact next_inj hexec h ▸ .outOfRange
  · exact next_inj hexec h ▸ .zeroWidth j hj hpos hmap
  · exact next_inj hexec h ▸ .note j n c hj hpos hmap

theorem commandOutcome_setbeat {s t : State} (h : exec .setbeat s = .next t) : CommandOutcome s .setbeat t := by
  rcases exec_setbeat_cases s with ⟨hbad, hexec⟩ | ⟨_, hexec⟩ | ⟨hlo, hhi, hexec⟩
  · exact next_inj hexec h ▸ .badSelector hbad
  · exact next_inj hexec h ▸ .disarm
  · exact next_inj hexec h ▸ .arm hlo hhi

theorem commandOutcome_of_exec {i : Instr} {s t : State} (h : exec i s = .next t) : CommandOutcome s i t := by
  cases i with
  | fxmul => exact next_inj (exec_fxmul s) h ▸ .fxmul
  | fxdiv => exact commandOutcome_fxdiv h
  | i2fx => exact next_inj (exec_i2fx s) h ▸ .i2fx
  | fx2f => exact next_inj (exec_fx2f s) h ▸ .fx2f _ _
  | estimate => exact commandOutcome_estimate h
  | mapfreq => exact commandOutcome_mapfreq h
  | setref => exact next_inj (exec_setref s) h ▸ .setref
  | setbeat => exact commandOutcome_setbeat h

/-! ## Events -/

/-- `EventOutcome s e t`: the event `e` completes on `s` and leaves `t`. -/
inductive EventOutcome (s : State) : Event → State → Prop
  | reset : EventOutcome s .reset (resetEvent s)
  | ignoredWrite (r : Nat) (v : Word) : EventOutcome s (.hostWrite r v) s
  | illegal (v : Word) : s.fatal = false → (∀ i, decode v ≠ .ok i) →
      EventOutcome s (.hostWrite 0 v) (raise .illCmd s)
  | command (v : Word) (i : Instr) (t : State) : s.fatal = false → decode v = .ok i → CommandOutcome s i t →
      EventOutcome s (.hostWrite 0 v) t
  | opa (v : Word) : s.fatal = false → EventOutcome s (.hostWrite 2 v) { s with opa := v }
  | opb (v : Word) : s.fatal = false → EventOutcome s (.hostWrite 3 v) { s with opb := v }
  | hostRead (r : Nat) : EventOutcome s (.hostRead r) { s with reads := portRead s r :: s.reads }
  | acqWrite (k : Nat) (w : Sample) : k < bufLen s.cfg → EventOutcome s (.acqWrite k w) (frontBankStore k w s)
  | acqPastEnd (k : Nat) (w : Sample) : EventOutcome s (.acqWrite k w) s
  | acqDone : EventOutcome s .acqDone { s with back := !s.back, ready := true }
  | haltedTick : s.fatal = true → EventOutcome s .tick s
  | tick (u t : State) : s.fatal = false → tickToneOff s = .ok u → tickBeat u = .ok t → EventOutcome s .tick t

theorem eventOutcome_hostWrite {r : Nat} {v : Word} {s t : State} (h : runEvent (.hostWrite r v) s = .next t) :
    EventOutcome s (.hostWrite r v) t := by
  rcases runEvent_hostWrite r v s with
    ⟨_, hrun⟩ | ⟨hfatal, ⟨rfl, hrun⟩ | ⟨rfl, hrun⟩ | ⟨rfl, hrun⟩ | ⟨_, _, _, hrun⟩⟩
  · exact next_inj hrun h ▸ .ignoredWrite r v
  · rcases issueCommand_cases v s with ⟨i, hdecode, hissue⟩ | ⟨hillegal, hissue⟩
    · exact .command v i t hfatal hdecode (commandOutcome_of_exec (hissue.symm.trans (hrun.symm.trans h)))
    · exact next_inj (hrun.trans hissue) h ▸ .illegal v hfatal hillegal
  · exact next_inj hrun h ▸ .opa v hfatal
  · exact next_inj hrun h ▸ .opb v hfatal
  · exact next_inj hrun h ▸ .ignoredWrite r v

theorem eventOutcome_acqWrite {k : Nat} {w : Sample} {s t : State} (h : runEvent (.acqWrite k w) s = .next t) :
    EventOutcome s (.acqWrite k w) t := by
  rcases runEvent_acqWrite k w s with ⟨hk, hrun⟩ | ⟨_, hrun⟩
  · exact next_inj hrun h ▸ .acqWrite k w hk
  · exact next_inj hrun h ▸ .acqPastEnd k w

theorem eventOutcome_tick {s t : State} (h : tickEvent s = .next t) : EventOutcome s .tick t := by
  rcases tickEvent_cases s with
    ⟨hhalt, htick⟩ | ⟨hrun, ⟨u, hu, ⟨u', hu', htick⟩ | ⟨e, _, htick⟩⟩ | ⟨e, _, htick⟩⟩
  · exact next_inj htick h ▸ .haltedTick hhalt
  · exact next_inj htick h ▸ .tick u u' hrun hu hu'
  · cases htick.symm.trans h
  · cases htick.symm.trans h

theorem eventOutcome_of_runEvent {e : Event} {s t : State} (h : runEvent e s = .next t) : EventOutcome s e t := by
  cases e with
  | reset => exact next_inj (runEvent_reset s) h ▸ .reset
  | hostWrite r v => exact eventOutcome_hostWrite h
  | hostRead r => exact next_inj (runEvent_hostRead r s) h ▸ .hostRead r
  | acqWrite k w => exact eventOutcome_acqWrite h
  | acqDone => exact next_inj (runEvent_acqDone s) h ▸ .acqDone
  | tick => exact eventOutcome_tick h

/-! ## Steps -/

/-- A step is idle, or it is the outcome of the event that stands first. -/
theorem step_outcome {s t : State} (h : step s = .next t) :
    (s.events = [] ∧ t = s) ∨
    ∃ e rest, s.events = e :: rest ∧ EventOutcome { s with events := rest } e t := by
  cases he : s.events with
  | nil => exact .inl ⟨rfl, next_inj h (step_idle he)⟩
  | cons e rest => exact .inr ⟨e, rest, rfl, eventOutcome_of_runEvent ((step_event he).symm.trans h)⟩

/-- What the parts of a running Tick write. -/
theorem tick_frame {s u t : State} (htone : tickToneOff s = .ok u) (hbeat : tickBeat u = .ok t) :
    t = { s with
      beatCnt := t.beatCnt, subbeat := t.subbeat, toffCnt := t.toffCnt, toneOn := t.toneOn, toneHigh := t.toneHigh,
      toffArmed := t.toffArmed } := by
  have hu := tickToneOff_frame htone
  have ht := tickBeat_frame hbeat
  rw [hu] at ht
  exact ht

end Sys2Proof.Machine
end

section
/-!
What each command writes and what it leaves alone (10_state.md section 1, 70_reset_and_hazards.md section 2): every clause
is a case split along the outcomes of a command.
-/
namespace Sys2Proof.Machine

section Command
variable {i : Instr} {s t : State}

/-- The operands, the outside's items, TONE_HIGH, TOFF_CNT, the parameters and the model's own lists. -/
theorem command_keeps_outside (h : CommandOutcome s i t) :
    t.opa = s.opa ∧ t.opb = s.opb ∧ t.back = s.back ∧ t.toneHigh = s.toneHigh ∧ t.toffCnt = s.toffCnt ∧
      t.cfg = s.cfg ∧ t.resets = s.resets ∧ t.events = s.events ∧ t.reads = s.reads := by
  cases h with
  | lowSignal => simp
  | flatPeak => simp
  | frequency f u hu => rw [smooth_frame hu]; simp
  | _ => exact ⟨rfl, rfl, rfl, rfl, rfl, rfl, rfl, rfl, rfl⟩

theorem command_cfg (h : CommandOutcome s i t) : t.cfg = s.cfg := by
  obtain ⟨_, _, _, _, _, hcfg, _⟩ := command_keeps_outside h
  exact hcfg

theorem command_keeps_resh (h : CommandOutcome s i t) (hi : i ≠ .fx2f) : t.resh = s.resh := by
  cases h with
  | fx2f hi' lo => exact absurd rfl hi
  | lowSignal => simp
  | flatPeak => simp
  | frequency f u hu => rw [smooth_frame hu]; simp
  | _ => rfl

theorem command_keeps_results (h : CommandOutcome s i t) (hi : i = .mapfreq ∨ i = .setref ∨ i = .setbeat) :
    t.resl = s.resl ∧ t.resh = s.resh := by
  rcases hi with rfl | rfl | rfl
  · cases h <;> exact ⟨rfl, rfl⟩
  · cases h; exact ⟨rfl, rfl⟩
  · cases h <;> exact ⟨rfl, rfl⟩

theorem command_keeps_lut (h : CommandOutcome s i t) (hi : i ≠ .setref) (k : Nat) :
    t.mem.word .lut k = s.mem.word .lut k := by
  have hpass : (passToPeak s).mem.word .lut k = s.mem.word .lut k :=
    passToPeak_word_ne s (by decide) (by decide) k
  cases h with
  | lowSignal => exact hpass
  | flatPeak => exact hpass
  | frequency f u hu =>
    obtain ⟨_, hword⟩ := smooth_mem hu
    exact (hword .lut (by decide) (by decide) k).trans hpass
  | setref => exact absurd rfl hi
  | _ => rfl

theorem command_keeps_note (h : CommandOutcome s i t) (hi : i ≠ .mapfreq) :
    t.note = s.note ∧ t.cents = s.cents ∧ t.maprange = s.maprange := by
  cases h with
  | lowSignal => simp
  | flatPeak => simp
  | frequency f u hu => rw [smooth_frame hu]; simp
  | outOfRange => exact absurd rfl hi
  | zeroWidth => exact absurd rfl hi
  | note => exact absurd rfl hi
  | _ => exact ⟨rfl, rfl, rfl⟩

/-- The items of a pass and of the smoother, the banks, and every space but LUT. -/
theorem command_keeps_estimator (h : CommandOutcome s i t) (hi : i ≠ .estimate) :
    t.rkind = s.rkind ∧ t.ready = s.ready ∧ t.samperr = s.samperr ∧ t.errcnt = s.errcnt ∧
      t.dcmag = s.dcmag ∧ t.peakbin = s.peakbin ∧ t.peakmag = s.peakmag ∧ t.est = s.est ∧ t.ravg = s.ravg ∧
      t.rdev = s.rdev ∧ t.cursor = s.cursor ∧ t.outcnt = s.outcnt ∧ (∀ b, t.mem.bank b = s.mem.bank b) ∧
      ∀ sp, sp ≠ .lut → ∀ k, t.mem.word sp k = s.mem.word sp k := by
  cases h with
  | noBuffer => exact absurd rfl hi
  | lowSignal => exact absurd rfl hi
  | flatPeak => exact absurd rfl hi
  | frequency => exact absurd rfl hi
  | setref =>
    exact ⟨rfl, rfl, rfl, rfl, rfl, rfl, rfl, rfl, rfl, rfl, rfl, rfl, bank_fill _ _ _,
      fun sp hsp k => word_fill_ne _ _ _ hsp⟩
  | _ =>
    exact ⟨rfl, rfl, rfl, rfl, rfl, rfl, rfl, rfl, rfl, rfl, rfl, rfl, fun _ => rfl, fun _ _ _ => rfl⟩

theorem command_keeps_beat (h : CommandOutcome s i t) (hi : i ≠ .setbeat) :
    t.beatsel = s.beatsel ∧ t.interval = s.interval ∧ t.subbeat = s.subbeat ∧ t.beatCnt = s.beatCnt := by
  cases h with
  | lowSignal => simp
  | flatPeak => simp
  | frequency f u hu => rw [smooth_frame hu]; simp
  | badSelector => exact absurd rfl hi
  | disarm => exact absurd rfl hi
  | arm => exact absurd rfl hi
  | _ => exact ⟨rfl, rfl, rfl, rfl⟩

/-- A command that does not halt the unit leaves the fault code, the tone and its timer, and only SETBEAT arms or
disarms the clock. -/
theorem command_keeps_tone (h : CommandOutcome s i t) (hrun : t.fatal = false) :
    t.fcode = s.fcode ∧ t.toneOn = s.toneOn ∧ t.toffArmed = s.toffArmed ∧
      (i ≠ .setbeat → t.beatArmed = s.beatArmed) := by
  cases h with
  | fxdivZero => cases hrun
  | flatPeak => cases hrun
  | zeroWidth => cases hrun
  | badSelector => cases hrun
  | lowSignal => simp
  | frequency f u hu => rw [smooth_frame hu]; simp
  | disarm => exact ⟨rfl, rfl, rfl, fun hi => absurd rfl hi⟩
  | arm => exact ⟨rfl, rfl, rfl, fun hi => absurd rfl hi⟩
  | _ => exact ⟨rfl, rfl, rfl, fun _ => rfl⟩

theorem command_keeps_frontBank (h : CommandOutcome s i t) : t.mem.bank (!s.back) = s.mem.bank (!s.back) := by
  have hpass : (passToPeak s).mem.bank (!s.back) = s.mem.bank (!s.back) :=
    (passToPeak_bank s _).trans (s1Ingest_bank_front s)
  cases h with
  | lowSignal => exact hpass
  | flatPeak => exact hpass
  | frequency f u hu =>
    obtain ⟨hbank, _⟩ := smooth_mem hu
    exact (hbank _).trans hpass
  | setref => exact bank_fill _ _ _ _
  | _ => rfl

end Command

/-- Settles O54: each clause is a frame of the command's outcome. -/
theorem commandsWriteOnlyTheirOwnResults : Obligations.CommandsWriteOnlyTheirOwnResults := by
  intro i s t hexec
  have h := commandOutcome_of_exec hexec
  obtain ⟨hopa, hopb, hback, hhigh, htoff, hcfg, hresets, hevents, hreads⟩ := command_keeps_outside h
  exact ⟨hopa, hopb, hback, hhigh, htoff, hcfg, hresets, hevents, hreads, command_keeps_resh h, command_keeps_results h,
    command_keeps_lut h, command_keeps_note h, command_keeps_estimator h, command_keeps_beat h,
    fun _ hrun => command_keeps_tone h hrun, bankWord_congr (command_keeps_frontBank h) hresets⟩

/-! ## Scheduler and pitch pipeline -/

/-- `t` is `s` but for the items of the scheduler. -/
def KeepsPipeline (s t : State) : Prop := t = { s with
  beatsel := t.beatsel, interval := t.interval, beatArmed := t.beatArmed, beatCnt := t.beatCnt,
  subbeat := t.subbeat, toffArmed := t.toffArmed, toffCnt := t.toffCnt, toneOn := t.toneOn,
  toneHigh := t.toneHigh }

theorem keepsPipeline_setbeat {s t : State} (h : CommandOutcome s .setbeat t) (hrun : t.fatal = false) :
    KeepsPipeline s t := by
  cases h with
  | badSelector => cases hrun
  | disarm => rfl
  | arm => rfl

theorem keepsPipeline_tick {s t : State} (h : EventOutcome s .tick t) : KeepsPipeline s t := by
  cases h with
  | haltedTick => rfl
  | tick u t _ htone hbeat =>
    unfold KeepsPipeline
    rw [tick_frame htone hbeat]

/-- Settles O55: the frames of the other commands on the scheduler, and those of SETBEAT and Tick on the rest. -/
theorem schedulerAndPipelineShareNoState : Obligations.SchedulerAndPipelineShareNoState := by
  refine ⟨fun i s t hi hexec hfatal hrun => ?pipeline, fun s t h => ?scheduler⟩
  case pipeline =>
    have h := commandOutcome_of_exec hexec
    obtain ⟨_, _, _, hhigh, htoff, _⟩ := command_keeps_outside h
    obtain ⟨hsel, hinterval, hsub, hcnt⟩ := command_keeps_beat h hi
    obtain ⟨_, htone, htoffArmed, harmed⟩ := command_keeps_tone h (hfatal.trans hrun)
    exact ⟨hsel, hinterval, harmed hi, hcnt, hsub, htoffArmed, htoff, htone, hhigh⟩
  case scheduler =>
    rcases h with ⟨hexec, hfatal, hrun⟩ | htick
    · exact keepsPipeline_setbeat (commandOutcome_of_exec hexec) (hfatal.trans hrun)
    · exact keepsPipeline_tick (eventOutcome_tick htick)

/-! ## Parameters, events and reads over a run -/

theorem event_cfg {e : Event} {s t : State} (h : EventOutcome s e t) : t.cfg = s.cfg := by
  cases h with
  | command v i t _ _ h => exact command_cfg h
  | tick u t _ htone hbeat => rw [tick_frame htone hbeat]
  | _ => rfl

theorem event_events {e : Event} {s t : State} (h : EventOutcome s e t) : t.events = s.events := by
  cases h with
  | command v i t _ _ h =>
    obtain ⟨_, _, _, _, _, _, _, hevents, _⟩ := command_keeps_outside h
    exact hevents
  | tick u t _ htone hbeat => rw [tick_frame htone hbeat]
  | _ => rfl

theorem event_hostRead_reads {r : Nat} {s t : State} (h : EventOutcome s (.hostRead r) t) :
    t.reads = portRead s r :: s.reads := by
  cases h
  rfl

theorem event_keeps_reads {e : Event} {s t : State} (h : EventOutcome s e t) (he : isHostRead e = false) :
    t.reads = s.reads := by
  cases h with
  | hostRead r => cases he
  | command v i t _ _ h =>
    obtain ⟨_, _, _, _, _, _, _, _, hreads⟩ := command_keeps_outside h
    exact hreads
  | tick u t _ htone hbeat => rw [tick_frame htone hbeat]
  | _ => rfl

theorem isHostRead_eq_true {e : Event} (h : isHostRead e = true) : ∃ r, e = .hostRead r := by
  cases e with
  | hostRead r => exact ⟨r, rfl⟩
  | _ => cases h

/-- What one step makes of the parameters, the waiting events and the values read. -/
theorem step_keeps_parameters {s t : State} (h : step s = .next t) :
    t.cfg = s.cfg ∧ t.events = s.events.drop 1 ∧ ∃ new, t.reads = new ++ s.reads ∧
      new.length = (s.events.take 1).countP isHostRead := by
  rcases step_outcome h with ⟨he, rfl⟩ | ⟨e, rest, he, hout⟩
  · exact ⟨rfl, by rw [he]; rfl, [], rfl, by rw [he]; rfl⟩
  · have hcfg := event_cfg hout
    refine ⟨hcfg, by rw [event_events hout, he]; rfl, ?_⟩
    cases hread : isHostRead e with
    | true =>
      obtain ⟨r, rfl⟩ := isHostRead_eq_true hread
      have hreads := event_hostRead_reads hout
      exact ⟨[_], hreads, by rw [he]; rfl⟩
    | false =>
      have hreads := event_keeps_reads hout hread
      exact ⟨[], hreads, by rw [he]; simp [hread]⟩

theorem run_of_fault (M : Host.Core) (n : Nat) {s : M.State} {e : M.Fault} (h : M.step s = .fault e) :
    M.run (n + 1) s = .fault e := by
  simp only [Host.Core.run, h]

theorem run_of_refused (M : Host.Core) (n : Nat) {s : M.State} {e : M.Refusal} (h : M.step s = .refused e) :
    M.run (n + 1) s = .refused e := by
  simp only [Host.Core.run, h]

/-- A run of `n + 1` steps that completes is a step and then a run of `n`. -/
theorem run_succ_next {n : Nat} {s t : State} (h : Sys2Proof.core.run (n + 1) s = .next t) :
    ∃ u, step s = .next u ∧ Sys2Proof.core.run n u = .next t := by
  cases hstep : step s with
  | next u => exact ⟨u, rfl, (core_run_of_next n hstep).symm.trans h⟩
  | fault e => cases h.symm.trans (run_of_fault Sys2Proof.core n hstep)
  | refused e => cases h.symm.trans (run_of_refused Sys2Proof.core n hstep)

theorem countP_take_succ {α : Type} (p : α → Bool) (l : List α) (n : Nat) :
    (l.take (n + 1)).countP p = ((l.drop 1).take n).countP p + (l.take 1).countP p := by
  rw [Nat.add_comm n 1, List.take_add, List.countP_append, Nat.add_comm]

/-- Settles O56: by induction on the length of the run, each step adding its own value read or none. -/
theorem parametersNeverChange : Obligations.ParametersNeverChange := by
  refine ⟨fun s t h => ⟨fun r rest he => ?read, fun hnone => ?other⟩, fun n => ?run⟩
  case read =>
    rcases step_outcome h with ⟨hnil, _⟩ | ⟨e, rest', he', hout⟩
    · cases hnil.symm.trans he
    · cases he'.symm.trans he
      have hreads := event_hostRead_reads hout
      exact hreads
  case other =>
    rcases step_outcome h with ⟨_, rfl⟩ | ⟨e, rest, he, hout⟩
    · rfl
    · have hother : isHostRead e = false := by
        refine Bool.eq_false_iff.2 fun hread => ?_
        obtain ⟨r, rfl⟩ := isHostRead_eq_true hread
        exact hnone r rest he
      have hreads := event_keeps_reads hout hother
      exact hreads
  case run =>
    induction n with
    | zero =>
      intro s t h
      obtain rfl : s = t := next_inj (run_zero s) h
      exact ⟨rfl, rfl, [], rfl, rfl⟩
    | succ n ih =>
      intro s t h
      obtain ⟨u, hstep, hrun⟩ := run_succ_next h
      obtain ⟨hcfg, hevents, new, hreads, hlen⟩ := step_keeps_parameters hstep
      obtain ⟨hcfg', hevents', new', hreads', hlen'⟩ := ih u t hrun
      refine ⟨hcfg'.trans hcfg, ?_, new' ++ new, ?_, ?_⟩
      · rw [hevents', hevents, List.drop_drop, Nat.add_comm 1]
      · rw [hreads', hreads, List.append_assoc]
      · rw [List.length_append, hlen', hlen, hevents, ← countP_take_succ]

end Sys2Proof.Machine
end

section
/-!
The invariant of the whole machine (42_smoother.md R162, 44_beat_scheduler.md R206): the state after Reset meets it,
every outcome of a command and of an event keeps it, and in a state that meets it every event completes.
-/
namespace Sys2Proof.Machine

theorem Inv.sizesOk {s : State} (h : Inv s) : s.cfg.sizesOk := by
  obtain ⟨hsizes, _, _⟩ := h.config
  exact hsizes

theorem Inv.patternOk {s : State} (h : Inv s) : s.cfg.patternOk := by
  obtain ⟨_, _, hpattern⟩ := h.config
  exact hpattern

/-! ## The smoother -/

/-- A change that leaves the smoother's items, the parameters and the words of HIST. -/
theorem smootherInv_congr {s t : State} (h : SmootherInv s) (hcfg : t.cfg = s.cfg) (hout : t.outcnt = s.outcnt)
    (hcur : t.cursor = s.cursor) (havg : t.ravg = s.ravg) (hdev : t.rdev = s.rdev)
    (hhist : ∀ k, t.mem.word .hist k = s.mem.word .hist k) : SmootherInv t := by
  have hwords : t.mem.words .hist s.cfg.rollingItems = s.mem.words .hist s.cfg.rollingItems :=
    words_congr fun k _ => hhist k
  unfold SmootherInv
  rw [hcfg, hout, hcur, havg, hdev, hwords]
  exact h

theorem smootherInv_smooth {f : Word} {s t : State} (hsize : s.cfg.sizesOk) (h : SmootherInv s)
    (hsmooth : smooth f s = .ok t) : SmootherInv t := by
  obtain ⟨_, _, _, _, hitems, ⟨hthresh, _⟩, _⟩ := hsize
  obtain ⟨_, hcursor, havg, hdev⟩ := h
  rcases smooth_cases f s with ⟨_, hlt, m, hm, heq⟩ | ⟨_, _, m, _, heq⟩ | ⟨_, _, m, _, heq⟩ | ⟨_, _, heq⟩ | ⟨_, _, heq⟩
  · cases heq.symm.trans hsmooth
    have hhist (k : Nat) : m.word .hist k = s.mem.word .hist k := store_word_other hm (.inl (by decide))
    exact ⟨hlt, hcursor, havg.trans (congrArg meanOfFilled (words_congr fun k _ => (hhist k).symm)), hdev⟩
  · cases heq.symm.trans hsmooth
    exact ⟨hthresh, Nat.mod_lt _ hitems, rfl, rfl⟩
  · cases heq.symm.trans hsmooth
    exact ⟨hthresh, Nat.mod_lt _ hitems, rfl, rfl⟩
  · cases heq.symm.trans hsmooth
  · cases heq.symm.trans hsmooth

/-! ## The beat scheduler -/

section Beat
variable {s t : State}

theorem beatInv_raise (cause : FatalCause) (h : BeatInv s) : BeatInv (raise cause s) := by
  obtain ⟨_, hcnt, hnone, hsub, _, _⟩ := h
  exact ⟨by simp, hcnt, hnone, hsub, rfl, by simp⟩

theorem beatInv_disarm (h : BeatInv s) :
    BeatInv { s with beatArmed := false, beatsel := 0, subbeat := 0, interval := 0, beatCnt := 0 } := by
  obtain ⟨_, _, _, _, htone, htoff⟩ := h
  exact ⟨by simp, by simp, by simp, by simp, htone, htoff⟩

/-- A selector 1 .. 15 is a BEATSEL other than NONE, and the four bits hold it. -/
theorem toNat_ofNat_selector {sel : Nat} (hhi : sel ≤ 15) : (BitVec.ofNat 4 sel).toNat = sel := by
  rw [BitVec.toNat_ofNat, Nat.mod_eq_of_lt (by omega)]

theorem zext_ofNat_beatInterval (bpm : Int) (sel : Nat) :
    zext (BitVec.ofNat 32 (beatInterval bpm sel)) = beatInterval bpm sel := by
  have hrange := beatInterval_range bpm sel
  rw [zext, BitVec.toNat_ofNat, Nat.mod_eq_of_lt (by omega)]

theorem beatInv_arm (hpattern : s.cfg.patternOk) (hrun : s.fatal = false) (h : BeatInv s) {bpm : Int} {sel : Nat}
    (hlo : 1 ≤ sel) (hhi : sel ≤ 15) :
    BeatInv { s with
      beatArmed := true, beatsel := BitVec.ofNat 4 sel, subbeat := 0,
      interval := BitVec.ofNat 32 (beatInterval bpm sel), beatCnt := beatInterval bpm sel } := by
  obtain ⟨_, _, _, _, htone, htoff⟩ := h
  obtain ⟨_, hrows, _⟩ := hpattern
  have hsel := toNat_ofNat_selector hhi
  have hne : BitVec.ofNat 4 sel ≠ 0 := fun h0 => by
    rw [h0] at hsel
    exact absurd hsel (by simp; omega)
  have hrange := beatInterval_range bpm sel
  have hinterval := zext_ofNat_beatInterval bpm sel
  refine ⟨⟨fun _ => ⟨hne, hrun⟩, fun _ => rfl⟩, fun _ => ?_, fun h0 => absurd h0 hne, fun _ => ?_, htone, htoff⟩
  · simp only [hinterval]
    omega
  · simp only [hsel]
    exact hrows sel (by omega) (by omega)

theorem beatInv_afterToneOff (h : BeatInv s) : BeatInv (afterToneOff s) := by
  obtain ⟨harmed, hcnt, hnone, hsub, htone, htoff⟩ := h
  refine ⟨harmed, hcnt, hnone, hsub, ?_, ?_⟩
  · by_cases h1 : s.toffCnt = 1 <;> by_cases hon : s.toffArmed = true <;> simp_all [afterToneOff]
  · intro hon
    by_cases h1 : s.toffCnt = 1
    · simp [afterToneOff, h1] at hon
    · have hon' : s.toffArmed = true := by simpa [afterToneOff, h1] using hon
      have hrange := htoff hon'
      simp only [afterToneOff, hon', if_true]
      omega

theorem tickToneOff_eq (h : BeatInv s) : tickToneOff s = .ok (afterToneOff s) := by
  obtain ⟨_, _, _, _, _, htoff⟩ := h
  exact tickToneOff_ok fun hon => (htoff hon).1

/-- Part (b) of a Tick in a legal state: nothing, a firing that finds its entry, or a count down. -/
theorem tickBeat_legal (h : BeatInv s) :
    (s.beatArmed = false ∧ tickBeat s = .ok s) ∨
    (s.beatArmed = true ∧ s.beatCnt = 1 ∧ ∃ kind, (patternRow s.cfg s.beatsel.toNat)[s.subbeat]? = some kind ∧
      tickBeat s = .ok (afterFiring kind s)) ∨
    (s.beatArmed = true ∧ 2 ≤ s.beatCnt ∧ tickBeat s = .ok { s with beatCnt := s.beatCnt - 1 }) := by
  obtain ⟨harmed, hcnt, _, hsub, _, _⟩ := h
  rcases tickBeat_cases s with hidle | ⟨hon, hone, _⟩ | hdown | ⟨hon, hzero, _⟩
  · exact .inl hidle
  · have hkind : (patternRow s.cfg s.beatsel.toNat)[s.subbeat]? = some _ :=
      List.getElem?_eq_getElem (hsub (harmed.1 hon).1)
    exact .inr (.inl ⟨hon, hone, _, hkind, tickBeat_fires hon hone hkind⟩)
  · exact .inr (.inr hdown)
  · have hpos := hcnt (harmed.1 hon).1
    omega

theorem beatInv_afterFiring (hsize : s.cfg.sizesOk) (h : BeatInv s) (hon : s.beatArmed = true) (kind : ToneKind) :
    BeatInv (afterFiring kind s) := by
  obtain ⟨_, _, _, _, _, _, _, htoneMs, _⟩ := hsize
  obtain ⟨harmed, hcnt, hnone, hsub, htone, htoff⟩ := h
  have hsel := (harmed.1 hon).1
  obtain ⟨_, _, hrange⟩ := hcnt hsel
  have hreload : (afterFiring kind s).beatCnt = zext s.interval := rfl
  have hlen : 0 < patternLen s.cfg s.beatsel.toNat := Nat.zero_lt_of_lt (hsub hsel)
  refine ⟨harmed, fun _ => ?_, fun h0 => absurd h0 hsel, fun _ => Nat.mod_lt _ hlen, ?_, ?_⟩
  · rw [hreload]
    exact ⟨by omega, le_rfl, hrange⟩
  · by_cases hk : kind = .silent
    · simpa [afterFiring, hk] using htone
    · simp [afterFiring, hk]
  · by_cases hk : kind = .silent
    · simpa [afterFiring, hk] using htoff
    · simpa [afterFiring, hk] using htoneMs

theorem beatInv_countDown (h : BeatInv s) (hcnt : 2 ≤ s.beatCnt) : BeatInv { s with beatCnt := s.beatCnt - 1 } := by
  obtain ⟨harmed, hrange, hnone, hsub, htone, htoff⟩ := h
  refine ⟨harmed, fun hsel => ?_, fun h0 => ?_, hsub, htone, htoff⟩
  · obtain ⟨_, hle, hinterval⟩ := hrange hsel
    exact ⟨Nat.le_sub_one_of_lt hcnt, (Nat.sub_le _ _).trans hle, hinterval⟩
  · obtain ⟨_, hzero, _⟩ := hnone h0
    omega

theorem beatInv_tickBeat (hsize : s.cfg.sizesOk) (h : BeatInv s) (hbeat : tickBeat s = .ok t) : BeatInv t := by
  rcases tickBeat_legal h with ⟨_, heq⟩ | ⟨hon, _, kind, _, heq⟩ | ⟨_, hcnt, heq⟩
  · cases heq.symm.trans hbeat
    exact h
  · cases heq.symm.trans hbeat
    exact beatInv_afterFiring hsize h hon kind
  · cases heq.symm.trans hbeat
    exact beatInv_countDown h hcnt

end Beat

/-! ## The flags -/

theorem causeCode_range (cause : FatalCause) : causeCode cause ≠ 0 ∧ (causeCode cause).toNat ≤ 3 := by
  cases cause <;> decide

theorem statusInv_raise {s : State} (cause : FatalCause) (h : StatusInv s) : StatusInv (raise cause s) := by
  obtain ⟨_, _, hkind, _, hsamp, herr, hpeak⟩ := h
  obtain ⟨hne, hle⟩ := causeCode_range cause
  exact ⟨⟨fun _ => hne, fun _ => rfl⟩, hle, hkind, fun _ => rfl, hsamp, herr, hpeak⟩

theorem bufLen_le {c : Config} (h : c.sizesOk) : bufLen c ≤ 2 ^ 15 := by
  obtain ⟨⟨_, hlog⟩, _⟩ := h
  exact Nat.pow_le_pow_right two_pos hlog

/-- ERRCNT holds the count of flagged words, which fits it. -/
theorem toNat_s1Ingest_errcnt {s : State} (hsize : s.cfg.sizesOk) :
    (s1Ingest s).errcnt.toNat = (bankWords s s.back).countP sampleFlag ∧
      (bankWords s s.back).countP sampleFlag ≤ bufLen s.cfg := by
  have hcount : (bankWords s s.back).countP sampleFlag ≤ bufLen s.cfg :=
    List.countP_le_length.trans_eq (bankWords_length s s.back)
  have hlen := bufLen_le hsize
  rw [s1Ingest_errcnt, BitVec.toNat_ofNat, Nat.mod_eq_of_lt (by omega)]
  exact ⟨rfl, hcount⟩

theorem toNat_s5Peak_peakbin_lt {s : State} (hsize : s.cfg.sizesOk) : (s5Peak s).peakbin.toNat < bufLen s.cfg / 2 := by
  obtain ⟨q, hq, hN⟩ := bufLen_eq_four_mul hsize
  rw [s5Peak_peakbin, BitVec.toNat_ofNat]
  exact (Nat.mod_le _ _).trans_lt (findPeak_bin_lt _ _ (by omega))

theorem statusInv_passToPeak {s : State} (hsize : s.cfg.sizesOk) (h : StatusInv s) : StatusInv (passToPeak s) := by
  obtain ⟨hfatal, hcode, hkind, hhalt, _, _, _⟩ := h
  obtain ⟨herr, hcount⟩ := toNat_s1Ingest_errcnt hsize
  have hpeak : (passToPeak s).peakbin.toNat < bufLen s.cfg / 2 :=
    toNat_s5Peak_peakbin_lt (s := s4Fft (s3Permute (s2Window (s1Ingest s)))) (by simpa using hsize)
  have hsamp : (s1Ingest s).samperr = true ↔ (s1Ingest s).errcnt ≠ 0 := by
    rw [s1Ingest_samperr, decide_eq_true_iff, ← herr, Nat.pos_iff_ne_zero]
    exact not_congr ⟨fun h0 => BitVec.eq_of_toNat_eq h0, fun h0 => congrArg BitVec.toNat h0⟩
  unfold StatusInv
  simp only [passToPeak_fatal, passToPeak_fcode, passToPeak_rkind, passToPeak_toffArmed, passToPeak_samperr,
    passToPeak_errcnt, passToPeak_cfg]
  exact ⟨hfatal, hcode, hkind, hhalt, hsamp, herr.trans_le hcount, hpeak⟩

/-! ## Every outcome keeps the invariant -/

section Keeps
variable {s t : State}

theorem smootherInv_empty (hsize : s.cfg.sizesOk) (hout : s.outcnt = 0) (hcur : s.cursor = 0) (havg : s.ravg = 0)
    (hdev : s.rdev = 0) (hmem : s.mem = Memory.empty) : SmootherInv s := by
  obtain ⟨_, _, _, _, hitems, ⟨hthresh, _⟩, _⟩ := hsize
  refine ⟨hout.trans_lt hthresh, hcur.trans_lt hitems, ?_, ?_⟩
  · rw [havg, hmem, empty_words]
    exact (meanOfFilled_replicate_zero _).symm
  · rw [hdev, havg]
    exact (fxmul_zero_left _).symm

/-- The record at its reset values meets the invariant under every legal configuration. -/
theorem inv_resetValues {c : Config} (hc : c.wf) (n : Nat) (es : List Event) (rs : List Word) :
    Inv { State.reset with cfg := c, resets := n, events := es, reads := rs } := by
  obtain ⟨hsize, _, _⟩ := id hc
  obtain ⟨q, hq, hN⟩ := bufLen_eq_four_mul hsize
  have hhalf : 0 < bufLen c / 2 := by omega
  refine ⟨hc, empty_wf c, smootherInv_empty hsize rfl rfl rfl rfl rfl, ?beat, ?status⟩
  case beat => exact ⟨by simp [State.reset], by simp [State.reset], by simp [State.reset], by simp [State.reset], rfl,
    by simp [State.reset]⟩
  case status => exact ⟨by simp [State.reset], by simp [State.reset], by simp [State.reset], by simp [State.reset],
    by simp [State.reset], Nat.zero_le _, hhalf⟩

theorem inv_raise (cause : FatalCause) (h : Inv s) : Inv (raise cause s) :=
  ⟨h.config, h.memory, h.smoother, beatInv_raise cause h.beat, statusInv_raise cause h.status⟩

theorem inv_passToPeak (h : Inv s) : Inv (passToPeak s) where
  config := by rw [passToPeak_cfg]; exact h.config
  memory := by rw [passToPeak_cfg]; exact passToPeak_wf h.memory
  smoother := smootherInv_congr h.smoother (passToPeak_cfg s) (passToPeak_outcnt s) (passToPeak_cursor s)
    (passToPeak_ravg s) (passToPeak_rdev s) fun k => passToPeak_word_ne s (by decide) (by decide) k
  beat := by
    unfold BeatInv
    simp only [passToPeak_beatArmed, passToPeak_beatsel, passToPeak_fatal, passToPeak_beatCnt, passToPeak_interval,
      passToPeak_subbeat, passToPeak_cfg, passToPeak_toffArmed, passToPeak_toneOn, passToPeak_toffCnt]
    exact h.beat
  status := statusInv_passToPeak h.sizesOk h.status

theorem inv_smooth {f : Word} (h : Inv s) (hsmooth : smooth f s = .ok t) : Inv t := by
  have hmem := smooth_wf h.memory hsmooth
  have hsmoother := smootherInv_smooth h.sizesOk h.smoother hsmooth
  rw [smooth_frame hsmooth] at hsmoother ⊢
  exact ⟨h.config, hmem, hsmoother, h.beat, h.status⟩

/-- The items an exit of ESTIMATE writes beside the smoother's; 3 is no code of RKIND. -/
theorem inv_estimateExit (h : Inv s) (est resl : Word) {rkind : BitVec 2} (hkind : rkind ≠ 3) :
    Inv { s with est := est, resl := resl, rkind := rkind } := by
  obtain ⟨hfatal, hcode, _, hrest⟩ := h.status
  exact ⟨h.config, h.memory, h.smoother, h.beat, hfatal, hcode, hkind, hrest⟩

theorem inv_setref (h : Inv s) (ref : Nat) :
    Inv { s with mem := s.mem.fill .lut ((List.range (lutLen s.cfg)).map (lutEntry ref)) } := by
  have hmem := setref_wf ref h.memory
  have hhist (k : Nat) := word_fill_ne s.mem ((List.range (lutLen s.cfg)).map (lutEntry ref)) k
    (show RamSpace.hist ≠ .lut by decide)
  exact ⟨h.config, hmem, smootherInv_congr h.smoother rfl rfl rfl rfl rfl hhist, h.beat, h.status⟩

theorem inv_command {i : Instr} (h : Inv s) (hrun : s.fatal = false) (hout : CommandOutcome s i t) : Inv t := by
  cases hout with
  | fxdivZero => exact inv_raise _ h
  | noBuffer => exact inv_estimateExit h s.est _ (by decide)
  | lowSignal => exact inv_estimateExit (inv_passToPeak h) _ _ (by decide)
  | flatPeak => exact inv_raise _ (inv_passToPeak h)
  | frequency f u hu =>
    have hpass := inv_passToPeak h
    have hest : Inv { passToPeak s with est := f } :=
      ⟨hpass.config, hpass.memory, hpass.smoother, hpass.beat, hpass.status⟩
    exact inv_estimateExit (inv_smooth hest hu) u.est _ (by decide)
  | zeroWidth => exact inv_raise _ h
  | setref => exact inv_setref h _
  | badSelector => exact inv_raise _ h
  | disarm => exact ⟨h.config, h.memory, h.smoother, beatInv_disarm h.beat, h.status⟩
  | arm hlo hhi => exact ⟨h.config, h.memory, h.smoother, beatInv_arm h.patternOk hrun h.beat hlo hhi, h.status⟩
  | _ => exact ⟨h.config, h.memory, h.smoother, h.beat, h.status⟩

theorem inv_frontBankStore (h : Inv s) {k : Nat} (hk : k < bufLen s.cfg) (w : Sample) : Inv (frontBankStore k w s) :=
  ⟨h.config, setBank_wf h.memory (memInsert_ordered w (bank_ordered h.memory _) hk),
    smootherInv_congr h.smoother rfl rfl rfl rfl rfl fun _ => word_frontBankStore .., h.beat, h.status⟩

/-- A running Tick: the scheduler's part is kept by its two halves, and STATUS asks of a running unit nothing of the
timers. -/
theorem inv_tick {u : State} (h : Inv s) (hrun : s.fatal = false) (htone : tickToneOff s = .ok u)
    (hbeat : tickBeat u = .ok t) : Inv t := by
  have hu : u = afterToneOff s := Except.ok.inj (htone.symm.trans (tickToneOff_eq h.beat))
  have hbeatInv : BeatInv t := by
    subst hu
    exact beatInv_tickBeat (s := afterToneOff s) h.sizesOk (beatInv_afterToneOff h.beat) hbeat
  have hstatus : s.fatal = true → t.toffArmed = false := fun hhalt => by cases hrun.symm.trans hhalt
  obtain ⟨hfatal, hcode, hkind, _, hrest⟩ := h.status
  rw [tick_frame htone hbeat] at hbeatInv ⊢
  exact ⟨h.config, h.memory, h.smoother, hbeatInv, hfatal, hcode, hkind, hstatus, hrest⟩

theorem inv_event {e : Event} (h : Inv s) (hout : EventOutcome s e t) : Inv t := by
  cases hout with
  | reset => exact inv_resetValues h.config _ _ _
  | ignoredWrite => exact h
  | illegal => exact inv_raise _ h
  | command v i t hrun _ hcmd => exact inv_command h hrun hcmd
  | acqWrite k w hk => exact inv_frontBankStore h hk w
  | acqPastEnd => exact h
  | haltedTick => exact h
  | tick u t hrun htone hbeat => exact inv_tick h hrun htone hbeat
  | _ => exact ⟨h.config, h.memory, h.smoother, h.beat, h.status⟩

/-- The waiting events are no part of the invariant. -/
theorem inv_withEvents (h : Inv s) (es : List Event) : Inv { s with events := es } :=
  ⟨h.config, h.memory, h.smoother, h.beat, h.status⟩

end Keeps

/-- Settles O52: an idle step keeps the state, and every outcome of an event keeps the invariant. -/
theorem everyStepKeepsTheInvariant : Obligations.EveryStepKeepsTheInvariant := by
  intro s t h hstep
  rcases step_outcome hstep with ⟨_, rfl⟩ | ⟨e, rest, _, hout⟩
  · exact h
  · exact inv_event (inv_withEvents h rest) hout

/-! ## Every step completes -/

section Completes
variable {s : State}

theorem tickEvent_completes (h : Inv s) : ∃ t, tickEvent s = .next t := by
  cases hrun : s.fatal with
  | true => exact ⟨s, tickEvent_halted hrun⟩
  | false =>
    have htone := tickToneOff_eq h.beat
    rcases tickBeat_legal (beatInv_afterToneOff h.beat) with ⟨_, hbeat⟩ | ⟨_, _, _, _, hbeat⟩ | ⟨_, _, hbeat⟩
    · exact ⟨_, tickEvent_ok hrun htone hbeat⟩
    · exact ⟨_, tickEvent_ok hrun htone hbeat⟩
    · exact ⟨_, tickEvent_ok hrun htone hbeat⟩

theorem exec_completes (h : Inv s) (i : Instr) : ∃ t, exec i s = .next t := by
  obtain ⟨hout, hcur, _⟩ := h.smoother
  by_cases hi : i = .estimate
  · subst hi
    exact exec_estimate_completes hout hcur
  · exact exec_next_of_ne hi s

theorem issueCommand_completes (h : Inv s) (v : Word) : ∃ t, issueCommand v s = .next t := by
  rcases issueCommand_cases v s with ⟨i, _, hissue⟩ | ⟨_, hissue⟩
  · rw [hissue]
    exact exec_completes h i
  · exact ⟨_, hissue⟩

theorem runEvent_completes (h : Inv s) (e : Event) : ∃ t, runEvent e s = .next t := by
  cases e with
  | reset => exact ⟨_, runEvent_reset s⟩
  | hostWrite r v =>
    rcases runEvent_hostWrite r v s with ⟨_, hrun⟩ | ⟨_, ⟨_, hrun⟩ | ⟨_, hrun⟩ | ⟨_, hrun⟩ | ⟨_, _, _, hrun⟩⟩
    · exact ⟨_, hrun⟩
    · rw [hrun]
      exact issueCommand_completes h v
    · exact ⟨_, hrun⟩
    · exact ⟨_, hrun⟩
    · exact ⟨_, hrun⟩
  | hostRead r => exact ⟨_, runEvent_hostRead r s⟩
  | acqWrite k w =>
    rcases runEvent_acqWrite k w s with ⟨_, hrun⟩ | ⟨_, hrun⟩
    · exact ⟨_, hrun⟩
    · exact ⟨_, hrun⟩
  | acqDone => exact ⟨_, runEvent_acqDone s⟩
  | tick => exact tickEvent_completes h

theorem step_completes (h : Inv s) : ∃ t, step s = .next t := by
  cases he : s.events with
  | nil => exact ⟨s, step_idle he⟩
  | cons e rest =>
    rw [step_event he]
    exact runEvent_completes (inv_withEvents h rest) e

end Completes

/-- Settles O53: the counts of a legal state are in range, so its step completes, and the step keeps the invariant. -/
theorem noStepStopsFromALegalState : Obligations.NoStepStopsFromALegalState := by
  intro s h
  obtain ⟨t, hstep⟩ := step_completes h
  exact ⟨t, hstep, everyStepKeepsTheInvariant s t h hstep⟩

/-! ## The reference configuration and the state after Reset -/

theorem refConfig_wf : refConfig.wf := by
  refine ⟨by decide, by decide, by decide⟩

/-- Settles O51: the reset values meet the invariant under the reference configuration; no tone sounds, and NOTE and
CENTS are 0. -/
theorem resetMeetsTheInvariant : Obligations.ResetMeetsTheInvariant :=
  ⟨inv_resetValues refConfig_wf 0 [] [], by decide, fun harmed => absurd harmed (by decide)⟩

end Sys2Proof.Machine
end

section
/-!
The beat scheduler over Ticks (44_beat_scheduler.md sections 2 and 3): the gap between the tone and the next firing, the
Tick that does not fire, and the Ticks from a SETBEAT to its first firing.
-/
namespace Sys2Proof.Machine

/-! ## The gap -/

section Gap
variable {s t : State}

theorem toneMs_le {c : Config} (h : c.sizesOk) : c.toneMs ≤ 49 := by
  obtain ⟨_, _, _, _, _, _, _, _, hhi⟩ := h
  exact hhi

/-- A tone that part (a) leaves sounding has at least one Tick less to go than the clock had before it. -/
theorem toneGap_afterToneOff (hgap : ToneGap s) (hbeat : BeatInv s) (harmed : s.beatArmed = true)
    (hon : (afterToneOff s).toffArmed = true) : (afterToneOff s).toffCnt + 1 < s.beatCnt := by
  obtain ⟨_, _, _, _, _, htoff⟩ := hbeat
  have hne : s.toffCnt ≠ 1 := fun h1 => by simp [afterToneOff, h1] at hon
  have hon' : s.toffArmed = true := by simpa [afterToneOff, hne] using hon
  have hlt := hgap harmed hon'
  obtain ⟨hpos, _⟩ := htoff hon'
  simp only [afterToneOff, hon', if_true]
  omega

/-- A firing reloads the clock with at least 50 and the tone's timer with at most 49. -/
theorem toneGap_afterFiring {kind : ToneKind} (hsize : s.cfg.sizesOk) (hbeat : BeatInv s) (harmed : s.beatArmed = true)
    (hoff : s.toffArmed = false) : ToneGap (afterFiring kind s) := by
  obtain ⟨hiff, hcnt, _⟩ := hbeat
  obtain ⟨hsel, _⟩ := hiff.1 harmed
  obtain ⟨_, _, hlo, _⟩ := hcnt hsel
  have htone := toneMs_le hsize
  intro _ hon
  by_cases hk : kind = .silent
  · simp [afterFiring, hk, hoff] at hon
  · simp only [afterFiring, hk, if_false]
    simp only [zext] at hlo
    omega

theorem toneGap_tick (h : Inv s) (hgap : ToneGap s) {u : State} (htone : tickToneOff s = .ok u)
    (hbeat : tickBeat u = .ok t) : ToneGap t := by
  cases (tickToneOff_eq h.beat).symm.trans htone
  have hafter (harmed : s.beatArmed = true) := toneGap_afterToneOff hgap h.beat harmed
  rcases tickBeat_legal (beatInv_afterToneOff h.beat) with ⟨hidle, heq⟩ | ⟨harmed, hone, kind, _, heq⟩ | ⟨harmed, _, heq⟩
  · cases heq.symm.trans hbeat
    exact fun harmed => by cases hidle.symm.trans harmed
  · cases heq.symm.trans hbeat
    refine toneGap_afterFiring (s := afterToneOff s) h.sizesOk (beatInv_afterToneOff h.beat) harmed ?_
    refine Bool.eq_false_iff.2 fun hon => ?_
    have hlt := hafter harmed hon
    have hone' : s.beatCnt = 1 := hone
    omega
  · cases heq.symm.trans hbeat
    intro _ hon
    have hlt := hafter harmed hon
    show (afterToneOff s).toffCnt < s.beatCnt - 1
    omega

theorem toneGap_command {i : Instr} (h : Inv s) (hgap : ToneGap s) (hout : CommandOutcome s i t) : ToneGap t := by
  obtain ⟨_, _, _, _, _, htoff⟩ := h.beat
  have htoneMs := toneMs_le h.sizesOk
  cases hout with
  | fxdivZero => exact fun harmed => by cases harmed
  | lowSignal => simpa using hgap
  | flatPeak => exact fun harmed => by cases harmed
  | frequency f u hu => rw [smooth_frame hu]; simpa using hgap
  | zeroWidth => exact fun harmed => by cases harmed
  | badSelector => exact fun harmed => by cases harmed
  | disarm => exact fun harmed => by cases harmed
  | arm =>
    intro _ hon
    obtain ⟨_, hle⟩ := htoff hon
    obtain ⟨hinterval, _⟩ := beatInterval_range s.opa.toInt s.opb.toNat
    show s.toffCnt < beatInterval s.opa.toInt s.opb.toNat
    omega
  | _ => exact hgap

theorem toneGap_event {e : Event} (h : Inv s) (hgap : ToneGap s) (hout : EventOutcome s e t) : ToneGap t := by
  cases hout with
  | reset => exact fun harmed => by cases harmed
  | illegal => exact fun harmed => by cases harmed
  | command v i t _ _ hcmd => exact toneGap_command h hgap hcmd
  | tick u t _ htone hbeat => exact toneGap_tick h hgap htone hbeat
  | _ => exact hgap

end Gap

/-- Settles O39: every outcome keeps the gap, and with one Tick left on the clock the gap leaves none for a tone. -/
theorem toneEndsBeforeTheNextFiring : Obligations.ToneEndsBeforeTheNextFiring := by
  intro s t h hgap hstep
  refine ⟨?kept, fun rest _ _ harmed hone => ?firing⟩
  case kept =>
    rcases step_outcome hstep with ⟨_, rfl⟩ | ⟨e, rest, _, hout⟩
    · exact hgap
    · exact toneGap_event (inv_withEvents h rest) hgap hout
  case firing =>
    obtain ⟨_, _, _, _, htone, htoff⟩ := h.beat
    have hoff : s.toffArmed = false := by
      refine Bool.eq_false_iff.2 fun hon => ?_
      have hlt := hgap harmed hon
      obtain ⟨hpos, _⟩ := htoff hon
      omega
    exact ⟨htone.symm.trans hoff, hoff⟩

/-! ## A Tick that does not fire -/

theorem tickBeat_counts {s : State} (h : s.beatArmed = true → 2 ≤ s.beatCnt) :
    tickBeat s = .ok { s with beatCnt := if s.beatArmed = true then s.beatCnt - 1 else s.beatCnt } := by
  rcases tickBeat_cases s with ⟨hoff, heq⟩ | ⟨hon, hone, _⟩ | ⟨hon, _, heq⟩ | ⟨hon, hzero, _⟩
  · rw [heq, if_neg (by simp [hoff])]
  · have hle := h hon
    omega
  · rw [heq, if_pos hon]
  · have hle := h hon
    omega

theorem tickEvent_counts {s : State} (hrun : s.fatal = false) (htoff : s.toffArmed = true → 1 ≤ s.toffCnt)
    (hbeat : s.beatArmed = true → 2 ≤ s.beatCnt) :
    tickEvent s = .next { afterToneOff s with beatCnt := if s.beatArmed = true then s.beatCnt - 1 else s.beatCnt } :=
  tickEvent_ok hrun (tickToneOff_ok htoff) (tickBeat_counts (s := afterToneOff s) hbeat)

/-- Settles O37: part (a) leaves the tone's timer counted down, and part (b) counts the clock down. -/
theorem tickCountsArmedTimersDown : Obligations.TickCountsArmedTimersDown := by
  intro s rest he hrun htoff hbeat
  exact (step_event he).trans (tickEvent_counts (s := { s with events := rest }) hrun htoff hbeat)

/-! ## From SETBEAT to the first firing -/

theorem tickTimes_succ {n : Nat} {s t : State} (h : tickTimes n s = .next t) :
    tickTimes (n + 1) s = tickEvent t := by
  induction n generalizing s with
  | zero =>
    obtain rfl : s = t := next_inj (show tickTimes 0 s = .next s from rfl) h
    rw [tickTimes]
    cases hs : tickEvent s <;> rfl
  | succ n ih =>
    rw [tickTimes] at h ⊢
    cases hs : tickEvent s with
    | next u => rw [hs] at h; exact ih h
    | fault e => rw [hs] at h; cases h
    | refused e => rw [hs] at h; cases h

/-- The unit `n` Ticks after a SETBEAT that left `t`: the clock has counted down from the interval, and a tone that still
sounds began before. -/
structure Counting (t : State) (n : Nat) (u : State) : Prop where
  frame : u = { t with
    beatCnt := u.beatCnt, toffCnt := u.toffCnt, toneOn := u.toneOn, toffArmed := u.toffArmed }
  beatCnt : u.beatCnt + n = t.interval.toNat
  tone : u.toffArmed = u.toneOn
  sounding : u.toneOn = true → t.toneOn = true ∧ 1 ≤ u.toffCnt ∧ u.toffCnt + n ≤ t.cfg.toneMs

theorem counting_tick {t u : State} {n : Nat} (hrun : t.fatal = false) (harmed : t.beatArmed = true)
    (hn : n + 1 < t.interval.toNat) (h : Counting t n u) : ∃ v, tickEvent u = .next v ∧ Counting t (n + 1) v := by
  have hcnt := h.beatCnt
  have hrun' : u.fatal = false := by rw [h.frame]; exact hrun
  have harmed' : u.beatArmed = true := by rw [h.frame]; exact harmed
  have htoff : u.toffArmed = true → 1 ≤ u.toffCnt := fun hon => (h.sounding (h.tone.symm.trans hon)).2.1
  refine ⟨_, tickEvent_counts hrun' htoff fun _ => by omega, ?_, ?_, ?_, ?_⟩
  · simp only [afterToneOff]
    rw [h.frame]
  · simp only [harmed', if_true]
    omega
  · by_cases h1 : u.toffCnt = 1 <;> cases hon : u.toneOn <;> simp [afterToneOff, h1, hon, h.tone]
  · intro hon
    by_cases h1 : u.toffCnt = 1 ∧ u.toffArmed = true
    · simp [afterToneOff, h1] at hon
    · have hon' : u.toneOn = true := by
        simp only [afterToneOff] at hon
        split_ifs at hon
        exact hon
      obtain ⟨htone, hpos, hle⟩ := h.sounding hon'
      have hoff : u.toffArmed = true := h.tone.trans hon'
      have hne : u.toffCnt ≠ 1 := fun h1' => h1 ⟨h1', hoff⟩
      refine ⟨htone, ?_, ?_⟩
      · simp only [afterToneOff, hoff, if_true]
        omega
      · simp only [afterToneOff, hoff, if_true]
        omega

theorem counting_tickTimes {t : State} (hrun : t.fatal = false) (harmed : t.beatArmed = true)
    (hstart : Counting t 0 t) {n : Nat} (hn : n < t.interval.toNat) :
    ∃ u, tickTimes n t = .next u ∧ Counting t n u := by
  induction n with
  | zero => exact ⟨t, rfl, hstart⟩
  | succ n ih =>
    obtain ⟨u, htimes, hcount⟩ := ih (by omega)
    obtain ⟨v, htick, hcount'⟩ := counting_tick hrun harmed hn hcount
    exact ⟨v, (tickTimes_succ htimes).trans htick, hcount'⟩

/-- The state SETBEAT leaves for a selector 1 .. 15. -/
def armedState (s : State) : State := { s with
  beatArmed := true
  beatsel := BitVec.ofNat 4 s.opb.toNat
  subbeat := 0
  interval := BitVec.ofNat 32 (beatInterval s.opa.toInt s.opb.toNat)
  beatCnt := beatInterval s.opa.toInt s.opb.toNat }

theorem exec_setbeat_arms {s : State} (hlo : 1 ≤ s.opb.toNat) (hhi : s.opb.toNat ≤ 15) :
    exec .setbeat s = .next (armedState s) := by
  rcases exec_setbeat_cases s with ⟨hbad, _⟩ | ⟨hnone, _⟩ | ⟨_, _, hexec⟩
  · omega
  · omega
  · exact hexec

theorem toNat_armedState_interval (s : State) :
    (armedState s).interval.toNat = beatInterval s.opa.toInt s.opb.toNat :=
  zext_ofNat_beatInterval _ _

theorem counting_armedState {s : State} (h : BeatInv s) : Counting (armedState s) 0 (armedState s) := by
  obtain ⟨_, _, _, _, htone, htoff⟩ := h
  exact ⟨rfl, (toNat_armedState_interval s).symm, htone, fun hon => ⟨hon, htoff (htone.trans hon)⟩⟩

/-- The Tick that ends the count fires the first entry of the pattern. -/
theorem counting_fires {t u : State} {kind : ToneKind} (hrun : t.fatal = false) (harmed : t.beatArmed = true)
    (hsub : t.subbeat = 0) (hlong : t.cfg.toneMs < t.interval.toNat)
    (hkind : (patternRow t.cfg t.beatsel.toNat)[0]? = some kind) (h : Counting t (t.interval.toNat - 1) u) :
    ∃ v, tickEvent u = .next v ∧ v.beatCnt = t.interval.toNat ∧ v.subbeat = 1 % patternLen t.cfg t.beatsel.toNat ∧
      v.toneOn = decide (kind ≠ .silent) ∧ (kind ≠ .silent → v.toneHigh = decide (kind = .high)) := by
  have hcnt := h.beatCnt
  have htoff : u.toffArmed = true → 1 ≤ u.toffCnt := fun hon => (h.sounding (h.tone.symm.trans hon)).2.1
  have hsilent : u.toneOn = false := by
    refine Bool.eq_false_iff.2 fun hon => ?_
    obtain ⟨_, hpos', hle⟩ := h.sounding hon
    omega
  have hoff : (afterToneOff u).toneOn = false := by simp [afterToneOff, hsilent]
  have hfire : tickEvent u = .next (afterFiring kind (afterToneOff u)) := by
    refine tickEvent_fires ?_ ?_ (by omega) htoff ?_
    · rw [h.frame]; exact hrun
    · rw [h.frame]; exact harmed
    · rw [h.frame]; simpa [hsub] using hkind
  refine ⟨_, hfire, ?_, ?_, ?_, ?_⟩
  · show u.interval.toNat = _
    rw [h.frame]
  · show (u.subbeat + 1) % patternLen u.cfg u.beatsel.toNat = _
    rw [h.frame, hsub]
  · by_cases hk : kind = .silent <;> simp [afterFiring, hk, hoff]
  · intro hk
    simp [afterFiring, hk]

/-- Settles O40: the clock counts down without firing for one Tick less than the interval, and the next Tick fires. -/
theorem firstFiringComesAfterOneInterval : Obligations.FirstFiringComesAfterOneInterval := by
  intro s h hrun hlo hhi
  obtain ⟨_, hrows, _⟩ := h.patternOk
  have hinterval := toNat_armedState_interval s
  have hrange := beatInterval_range s.opa.toInt s.opb.toNat
  have htone := toneMs_le h.sizesOk
  have hsel : (armedState s).beatsel.toNat = s.opb.toNat := toNat_ofNat_selector hhi
  have hcounting (n : Nat) (hn : n < (armedState s).interval.toNat) :=
    counting_tickTimes (t := armedState s) hrun rfl (counting_armedState h.beat) hn
  refine ⟨armedState s, exec_setbeat_arms hlo hhi, hinterval, fun n hn => ?before, ?firing⟩
  case before =>
    obtain ⟨u, htimes, hcount⟩ := hcounting n hn
    have hcnt := hcount.beatCnt
    refine ⟨u, htimes, by omega, ?_, ?_, fun hon => ?_⟩
    · rw [hcount.frame]; rfl
    · rw [hcount.frame]; rfl
    · obtain ⟨htone, hpos, hle⟩ := hcount.sounding hon
      exact ⟨htone, by change u.toffCnt + n ≤ s.cfg.toneMs at hle; omega⟩
  case firing =>
    obtain ⟨u, htimes, hcount⟩ := hcounting ((armedState s).interval.toNat - 1) (by omega)
    have hkind : (patternRow s.cfg s.opb.toNat)[0]? = some _ :=
      List.getElem?_eq_getElem (hrows s.opb.toNat (by omega) (by omega))
    have hlong : (armedState s).cfg.toneMs < (armedState s).interval.toNat := by
      change s.cfg.toneMs < _
      omega
    obtain ⟨v, htick, hcnt, hsub, hon, hhigh⟩ := counting_fires (t := armedState s) hrun rfl rfl hlong
      (by rw [hsel]; exact hkind) hcount
    have hlast : tickTimes (armedState s).interval.toNat (armedState s) = .next v := by
      rw [← Nat.sub_add_cancel (show 1 ≤ (armedState s).interval.toNat by omega)]
      exact (tickTimes_succ htimes).trans htick
    refine ⟨v, hlast, hcnt, by rw [hsub, hsel]; rfl, fun hk => ?high, fun hk => ?low, fun hk => ?silent⟩
    case high =>
      rw [Option.some.inj (hkind.symm.trans hk)] at hon hhigh
      exact ⟨hon, hhigh (by decide)⟩
    case low =>
      rw [Option.some.inj (hkind.symm.trans hk)] at hon hhigh
      exact ⟨hon, hhigh (by decide)⟩
    case silent =>
      rw [Option.some.inj (hkind.symm.trans hk)] at hon
      exact hon

end Sys2Proof.Machine
end

section
/-!
Halting and Reset (60_exceptions.md sections 2 and 6, 70_reset_and_hazards.md section 1): the causes that halt the unit,
a halted unit over whole runs, what Reset leaves, and the fields of STATUS.
-/
namespace Sys2Proof.Machine

/-! ## The causes that halt a running unit -/

/-- The rows of 60_exceptions.md R216 for the commands: what a command that halts the unit found, and the code. -/
def HaltCause (s t : State) (i : Instr) : Prop :=
  (i = .setbeat ∧ 15 < s.opb.toNat ∧ t.fcode = 2) ∨
  (i = .fxdiv ∧ s.opb = 0 ∧ t.fcode = 1) ∨
  (i = .estimate ∧ s.ready = true ∧ s.cfg.noiseFloor ≤ (passToPeak s).peakmag.toInt ∧
    s7Interp (passToPeak s) = none ∧ t.fcode = 1) ∨
  (i = .mapfreq ∧ t.fcode = 1 ∧ ∃ j, j + 1 < lutLen s.cfg ∧ 0 < (s.mem.word .lut j).toInt ∧
    (∀ k ≤ j, (s.mem.word .lut k).toInt ≤ s.opa.toInt) ∧ s.opa.toInt < (s.mem.word .lut (j + 1)).toInt ∧
    log2Fix (s.mem.word .lut j) = log2Fix (s.mem.word .lut (j + 1)))

theorem log2Fix_eq_of_mapInBracket_none {f lower upper : Word} {j : Nat} (h : mapInBracket f lower upper j = none) :
    log2Fix lower = log2Fix upper := by
  rcases mapInBracket_cases f lower upper j with ⟨heq, _⟩ | ⟨_, fl, fu, _, _, ⟨_, hsome⟩ | ⟨_, hsome⟩⟩
  · exact heq.symm
  · cases h.symm.trans hsome
  · cases h.symm.trans hsome

theorem haltCause_of_command {i : Instr} {s t : State} (hrun : s.fatal = false) (h : CommandOutcome s i t)
    (hhalt : t.fatal = true) : HaltCause s t i := by
  cases h with
  | fxdivZero hzero => exact .inr (.inl ⟨rfl, hzero, rfl⟩)
  | lowSignal => simp [hrun] at hhalt
  | flatPeak hready hge hnone => exact .inr (.inr (.inl ⟨rfl, hready, hge, hnone, rfl⟩))
  | frequency f u hu => rw [smooth_frame hu] at hhalt; simp [hrun] at hhalt
  | zeroWidth j hj hpos hmap =>
    obtain ⟨hlen, habove, hbelow⟩ := firstAbove_eq_some.1 hj
    exact .inr (.inr (.inr ⟨rfl, rfl, j, hlen, hpos, fun k hk => hbelow k (Nat.lt_succ_of_le hk), habove,
      log2Fix_eq_of_mapInBracket_none hmap⟩))
  | badSelector hbad => exact .inl ⟨rfl, hbad, rfl⟩
  | _ => cases hrun.symm.trans hhalt

theorem passToPeak_withEvents (s : State) (es : List Event) :
    passToPeak { s with events := es } = { passToPeak s with events := es } := rfl

theorem haltCause_withEvents {s t : State} {i : Instr} (es : List Event) :
    HaltCause { s with events := es } t i ↔ HaltCause s t i := by
  unfold HaltCause
  rw [passToPeak_withEvents]
  exact Iff.rfl

/-- Settles O44: of the events only a word written to CMD halts, and of the commands only the four the table names. -/
theorem onlyTheListedCausesHalt : Obligations.OnlyTheListedCausesHalt := by
  intro s t hrun hstep hhalt
  rcases step_outcome hstep with ⟨_, rfl⟩ | ⟨e, rest, he, hout⟩
  · cases hrun.symm.trans hhalt
  · cases hout with
    | illegal v _ hillegal => exact ⟨v, rest, he, .inl ⟨hillegal, rfl⟩⟩
    | command v i t _ hdecode hcmd =>
      refine ⟨v, rest, he, .inr ?_⟩
      have hcause : HaltCause s t i :=
        (haltCause_withEvents rest).1 (haltCause_of_command (s := { s with events := rest }) hrun hcmd hhalt)
      rcases hcause with ⟨rfl, hcause⟩ | ⟨rfl, hcause⟩ | ⟨rfl, hcause⟩ | ⟨rfl, hcause⟩
      · exact .inl ⟨hdecode, hcause⟩
      · exact .inr (.inl ⟨hdecode, hcause⟩)
      · exact .inr (.inr (.inl ⟨hdecode, hcause⟩))
      · exact .inr (.inr (.inr ⟨hdecode, hcause⟩))
    | reset => cases hhalt
    | tick u t _ htone hbeat =>
      rw [tick_frame htone hbeat] at hhalt
      cases hrun.symm.trans hhalt
    | _ => cases hrun.symm.trans hhalt

/-! ## The halted unit over a run -/

/-- `t` is halted like `s`, with its code, operands, results, note, tone and every word of the RAM spaces. -/
def HaltedLike (s t : State) : Prop :=
  t.fatal = true ∧ t.fcode = s.fcode ∧ t.opa = s.opa ∧ t.opb = s.opb ∧ t.resl = s.resl ∧ t.resh = s.resh ∧
    t.note = s.note ∧ t.cents = s.cents ∧ t.ravg = s.ravg ∧ t.toneOn = s.toneOn ∧
    ∀ sp k, t.mem.word sp k = s.mem.word sp k

theorem haltedLike_refl {s : State} (h : s.fatal = true) : HaltedLike s s :=
  ⟨h, rfl, rfl, rfl, rfl, rfl, rfl, rfl, rfl, rfl, fun _ _ => rfl⟩

theorem haltedLike_trans {s t u : State} (h : HaltedLike s t) (h' : HaltedLike t u) : HaltedLike s u := by
  obtain ⟨_, hfcode, hopa, hopb, hresl, hresh, hnote, hcents, hravg, htone, hword⟩ := h
  obtain ⟨hfatal', hfcode', hopa', hopb', hresl', hresh', hnote', hcents', hravg', htone', hword'⟩ := h'
  exact ⟨hfatal', hfcode'.trans hfcode, hopa'.trans hopa, hopb'.trans hopb, hresl'.trans hresl, hresh'.trans hresh,
    hnote'.trans hnote, hcents'.trans hcents, hravg'.trans hravg, htone'.trans htone,
    fun sp k => (hword' sp k).trans (hword sp k)⟩

/-- Every event but Reset completes on a halted unit and leaves it halted. -/
theorem runEvent_halted {s : State} {e : Event} (h : s.fatal = true) (he : e ≠ .reset) :
    ∃ t, runEvent e s = .next t ∧ HaltedLike s t := by
  have hsame := haltedLike_refl h
  cases e with
  | reset => exact absurd rfl he
  | hostWrite r v => exact ⟨s, runEvent_hostWrite_halted h r v, hsame⟩
  | hostRead r => exact ⟨_, runEvent_hostRead r s, hsame⟩
  | acqWrite k w =>
    rcases runEvent_acqWrite k w s with ⟨_, hrun⟩ | ⟨_, hrun⟩
    · exact ⟨_, hrun, h, rfl, rfl, rfl, rfl, rfl, rfl, rfl, rfl, rfl, word_frontBankStore k w s⟩
    · exact ⟨s, hrun, hsame⟩
  | acqDone => exact ⟨_, runEvent_acqDone s, hsame⟩
  | tick => exact ⟨s, tickEvent_halted h, hsame⟩

theorem step_halted {s : State} (h : s.fatal = true) (hnoReset : ∀ e ∈ s.events.take 1, e ≠ .reset) :
    ∃ t, step s = .next t ∧ HaltedLike s t ∧ t.events = s.events.drop 1 := by
  cases he : s.events with
  | nil => exact ⟨s, step_idle he, haltedLike_refl h, he⟩
  | cons e rest =>
    obtain ⟨t, hrun, hlike⟩ := runEvent_halted (s := { s with events := rest }) h (hnoReset e (by simp [he]))
    exact ⟨t, (step_event he).trans hrun, hlike, event_events (eventOutcome_of_runEvent hrun)⟩

/-- Settles O43: by induction on the length of the run, every event of it keeping the unit halted. -/
theorem onlyResetLeavesTheHaltedState : Obligations.OnlyResetLeavesTheHaltedState := by
  have hruns (n : Nat) : ∀ s : State, s.fatal = true → (∀ e ∈ s.events.take n, e ≠ .reset) →
      ∃ t, Sys2Proof.core.run n s = .next t ∧ HaltedLike s t := by
    induction n with
    | zero => exact fun s h _ => ⟨s, run_zero s, haltedLike_refl h⟩
    | succ n ih =>
      intro s h hnoReset
      rw [Nat.add_comm n 1, List.take_add] at hnoReset
      obtain ⟨u, hstep, hlike, hevents⟩ := step_halted h fun e he => hnoReset e (List.mem_append_left _ he)
      obtain ⟨t, hrun, hlike'⟩ := ih u hlike.1 fun e he =>
        hnoReset e (List.mem_append_right _ (by rwa [hevents] at he))
      exact ⟨t, (core_run_of_next n hstep).trans hrun, haltedLike_trans hlike hlike'⟩
  exact hruns

/-! ## Reset -/

/-- Settles O50: each item is one of the record's reset values, and a bank that lists nothing reads as the free value. -/
theorem resetPutsEveryItemToItsResetValue : Obligations.ResetPutsEveryItemToItsResetValue := by
  intro s rest he
  let u : State := { s with events := rest }
  have hbank (b : Bool) (k : Nat) : bankWord (resetEvent u) b k = Config.unwrittenSample (s.resets + 1) b k := by
    rw [bankWord, resetEvent_mem, empty_bank, memFind_nil]
    rfl
  have hstatus : statusWord (resetEvent u) = 2 := by
    rw [show statusWord (resetEvent u) = statusWord State.reset from rfl]
    decide
  exact ⟨resetEvent u, step_event he, rfl, rfl, rfl, rfl, rfl, rfl, empty_word, hstatus, hbank, rfl, rfl, rfl⟩

/-! ## STATUS -/

/-- Settles O46: a field starts where those below it end; the single bits are read off the concatenation. -/
theorem statusFieldsStandInTheirPlaces : Obligations.StatusFieldsStandInTheirPlaces := by
  intro s w
  have hw : w = statusWord s := rfl
  refine ⟨?ready, ?back, ?fatal, ?bit3, ?fcode, ?samperr, ?maprange, ?rkind, ?toneOn, ?toneHigh, ?beatArmed, ?toffArmed,
    ?upperHalf⟩
  case fcode =>
    rw [hw, statusWord]
    iterate 4 rw [BitVec.extractLsb'_append_eq_of_le (by norm_num)]
    exact BitVec.extractLsb'_append_eq_right
  case rkind =>
    rw [hw, statusWord]
    iterate 7 rw [BitVec.extractLsb'_append_eq_of_le (by norm_num)]
    exact BitVec.extractLsb'_append_eq_right
  case upperHalf =>
    rw [hw, statusWord]
    iterate 12 rw [BitVec.extractLsb'_append_eq_of_le (by norm_num)]
    rfl
  all_goals simp only [hw, statusWord, BitVec.getLsbD_append, Nat.reduceLT, Nat.reduceSub]
  all_goals simp

/-! ## The hand-off -/

/-- The front bank after a list of samples is stored at the places from `k` on. -/
def frontBankFill (k : Nat) : List Sample → State → State
  | [], s => s
  | w :: ws, s => frontBankFill (k + 1) ws (frontBankStore k w s)

theorem frontBankFill_frame (k : Nat) (ws : List Sample) (s : State) :
    frontBankFill k ws s = { s with mem := (frontBankFill k ws s).mem } := by
  induction ws generalizing k s with
  | nil => rfl
  | cons w ws ih => exact ih (k + 1) (frontBankStore k w s)

theorem bankWord_frontBankFill_other {k i : Nat} {b : Bool} {s : State} (h : b ≠ (!s.back) ∨ i < k) (ws : List Sample) :
    bankWord (frontBankFill k ws s) b i = bankWord s b i := by
  induction ws generalizing k s with
  | nil => rfl
  | cons w ws ih =>
    have hne : b ≠ (!s.back) ∨ i ≠ k := h.imp_right Nat.ne_of_lt
    calc bankWord (frontBankFill (k + 1) ws (frontBankStore k w s)) b i
      _ = bankWord (frontBankStore k w s) b i := ih (h.imp_right Nat.lt_succ_of_lt)
      _ = bankWord s b i := bankWord_frontBankStore_other hne w

theorem bankWord_frontBankFill_front {ws : List Sample} {i : Nat} (hi : i < ws.length) (k : Nat) (s : State) :
    bankWord (frontBankFill k ws s) (!s.back) (k + i) = ws.getD i 0 := by
  induction ws generalizing k i s with
  | nil => cases hi
  | cons w ws ih =>
    cases i with
    | zero =>
      have hlater := bankWord_frontBankFill_other (s := frontBankStore k w s) (b := !s.back)
        (.inr (Nat.lt_succ_self k)) ws
      exact hlater.trans (bankWord_frontBankStore_same k w s)
    | succ i =>
      have hrest := ih (Nat.lt_of_succ_lt_succ hi) (k + 1) (frontBankStore k w s)
      rwa [Nat.add_right_comm] at hrest

/-- Storing samples does not look at the waiting events. -/
theorem frontBankFill_events_irrelevant (k : Nat) (ws : List Sample) (s : State) (es rest : List Event) :
    { frontBankFill k ws { s with events := es } with events := rest } =
      { frontBankFill k ws s with events := rest } := by
  induction ws generalizing k s with
  | nil => rfl
  | cons w ws ih => exact ih (k + 1) (frontBankStore k w s)

/-- A run over AcqWrites in rising order of index stores their words. -/
theorem run_acqWrites (ws : List Sample) (k : Nat) (s : State) (rest : List Event)
    (hfit : k + ws.length ≤ bufLen s.cfg)
    (he : s.events = (ws.mapIdx fun i w => Event.acqWrite (k + i) w) ++ rest) (n : Nat) :
    Sys2Proof.core.run (ws.length + n) s =
      Sys2Proof.core.run n { frontBankFill k ws s with events := rest } := by
  induction ws generalizing k s with
  | nil =>
    have hstate : s = { s with events := rest } := by rw [← show s.events = rest from he]
    rw [List.length_nil, Nat.zero_add]
    exact congrArg _ hstate
  | cons w ws ih =>
    rw [List.length_cons] at hfit
    rw [List.mapIdx_cons, List.cons_append] at he
    let tail : List Event := (ws.mapIdx fun i w => Event.acqWrite (k + (i + 1)) w) ++ rest
    let u : State := frontBankStore k w { s with events := tail }
    have hstep : step s = .next u := (step_event he).trans (runEvent_acqWrite_inside (by simp; omega) w)
    have htail : u.events = (ws.mapIdx fun i w => Event.acqWrite (k + 1 + i) w) ++ rest := by
      simp only [Nat.add_right_comm k 1, Nat.add_assoc]
      rfl
    have hfit' : k + 1 + ws.length ≤ bufLen u.cfg := (Nat.add_right_comm k 1 ws.length).trans_le hfit
    rw [List.length_cons, Nat.add_right_comm, core_run_of_next _ hstep, ih (k + 1) u hfit' htail]
    exact congrArg _ (frontBankFill_events_irrelevant (k + 1) ws (frontBankStore k w s) tail rest)

theorem bankWords_eq_of_getD {s : State} {b : Bool} {ws : List Sample} (hlen : ws.length = bufLen s.cfg)
    (h : ∀ k < bufLen s.cfg, bankWord s b k = ws.getD k 0) : bankWords s b = ws := by
  refine List.ext_getElem (by simp [hlen]) fun k hk hk' => ?_
  rw [← List.getD_eq_getElem _ 0 hk, ← List.getD_eq_getElem _ 0 hk', bankWords_getD (by omega), h k (by omega)]

/-- Settles O49: the run stores the samples in the front bank, AcqDone makes it the back bank, and stage S1 reads its
words. -/
theorem handedOverWordsAreTheOnesIngested : Obligations.HandedOverWordsAreTheOnesIngested := by
  intro s ws rest hlen he
  let filled : State := { frontBankFill 0 ws s with events := .acqDone :: rest }
  let t : State := { filled with events := rest, back := !filled.back, ready := true }
  have hframe := frontBankFill_frame 0 ws s
  have hrun : Sys2Proof.core.run (bufLen s.cfg + 1) s = .next t := by
    have hfill := run_acqWrites ws 0 s (.acqDone :: rest) (by omega) (by simpa using he) 1
    have hdone : step filled = .next t := acqDoneExchangesTheBanks filled rest rfl
    rw [← hlen, hfill, core_run_of_next 0 hdone, run_zero]
  have ht : t = { s with events := rest, mem := t.mem, ready := true, back := !s.back } := by
    simp only [t, filled]
    rw [hframe]
  have hcfg : t.cfg = s.cfg := by rw [ht]
  have hback : t.back = !s.back := by rw [ht]
  have hwords (k : Nat) (hk : k < bufLen s.cfg) : bankWord t t.back k = ws.getD k 0 := by
    have hfront := bankWord_frontBankFill_front (hlen.symm ▸ hk) 0 s
    rw [hback]
    rwa [Nat.zero_add] at hfront
  have hother (k : Nat) : bankWord t s.back k = bankWord s s.back k :=
    bankWord_frontBankFill_other (k := 0) (s := s) (.inl (by simp)) ws
  refine ⟨t, hrun, rfl, rfl, hback, hwords, hother, fun k hk => ?reading, ?errcnt, ht⟩
  case reading => rw [s1Ingest_word_fr t (hcfg ▸ hk), i2fx_natCast, sampleReading_eq_mod, hwords k hk]
  case errcnt =>
    rw [s1Ingest_errcnt, bankWords_eq_of_getD (hcfg ▸ hlen) (hcfg ▸ hwords)]
    rfl

end Sys2Proof.Machine
end

section
/-!
The logarithm of the note mapper (43_note_mapper.md R182) and what MAPFREQ makes of it: the fraction bits as one number
below the binary point, monotony, the error against the real logarithm, and the range of NOTE and CENTS.
-/
namespace Sys2Proof.Machine

/-! ## The fraction bits -/

/-- What the fraction bits from place `b` down add up to. -/
def logFraction (b m : Nat) : Nat := logBits b m 0

theorem logBits_eq_add (b m frac : Nat) : logBits b m frac = frac + logFraction b m := by
  induction b generalizing m frac with
  | zero => rfl
  | succ b ih =>
    simp only [logFraction, logBits]
    split_ifs
    · rw [ih, ih _ (0 + 2 ^ b)]
      omega
    · exact ih _ frac

/-- The bit is 1: the square has reached 2.0 and is halved. -/
theorem logFraction_of_ge {m : Nat} (h : 2 ^ 31 ≤ m * m / 2 ^ 30) (b : Nat) :
    logFraction (b + 1) m = 2 ^ b + logFraction b (m * m / 2 ^ 30 / 2) := by
  have hbit : logFraction (b + 1) m = logBits b (m * m / 2 ^ 30 / 2) (0 + 2 ^ b) := if_pos h
  rw [hbit, logBits_eq_add, Nat.zero_add]

/-- The bit is 0: the square is below 2.0 and goes on as it is. -/
theorem logFraction_of_lt {m : Nat} (h : m * m / 2 ^ 30 < 2 ^ 31) (b : Nat) :
    logFraction (b + 1) m = logFraction b (m * m / 2 ^ 30) :=
  if_neg (Nat.not_le.2 h)

theorem logFraction_lt (b m : Nat) : logFraction b m < 2 ^ b := by
  induction b generalizing m with
  | zero => exact Nat.one_pos
  | succ b ih =>
    have hpow : 2 ^ (b + 1) = 2 ^ b + 2 ^ b := by rw [pow_succ, Nat.mul_two]
    rcases Nat.lt_or_ge (m * m / 2 ^ 30) (2 ^ 31) with hlt | hge
    · have hrest := ih (m * m / 2 ^ 30)
      rw [logFraction_of_lt hlt]
      omega
    · have hrest := ih (m * m / 2 ^ 30 / 2)
      rw [logFraction_of_ge hge]
      omega

theorem logFraction_mono {m m' : Nat} (h : m ≤ m') (b : Nat) : logFraction b m ≤ logFraction b m' := by
  induction b generalizing m m' with
  | zero => exact le_rfl
  | succ b ih =>
    have hsq : m * m / 2 ^ 30 ≤ m' * m' / 2 ^ 30 := Nat.div_le_div_right (Nat.mul_le_mul h h)
    rcases Nat.lt_or_ge (m * m / 2 ^ 30) (2 ^ 31) with hlt | hge
    · rw [logFraction_of_lt hlt]
      rcases Nat.lt_or_ge (m' * m' / 2 ^ 30) (2 ^ 31) with hlt' | hge'
      · rw [logFraction_of_lt hlt']
        exact ih hsq
      · rw [logFraction_of_ge hge']
        exact (logFraction_lt b _).le.trans (Nat.le_add_right _ _)
    · rw [logFraction_of_ge hge, logFraction_of_ge (hge.trans hsq)]
      exact Nat.add_le_add_left (ih (Nat.div_le_div_right hsq)) _

theorem logFraction_one (b : Nat) : logFraction b (2 ^ 30) = 0 := by
  induction b with
  | zero => rfl
  | succ b ih => rw [logFraction_of_lt (by norm_num), show 2 ^ 30 * 2 ^ 30 / 2 ^ 30 = 2 ^ 30 by norm_num, ih]

/-! ## The logarithm of a positive word -/

/-- The logarithm as a number of units of the last place, of a number whose leading bit has place `p`. -/
def logUnits (v p : Nat) : Int := ((p : Int) - 15) * 2 ^ 15 + logFraction 15 (v * 2 ^ (30 - p))

theorem toNat_toInt_of_pos {x : Word} (h : 1 ≤ x.toInt) : (x.toNat : Int) = x.toInt := by
  have hlt := x.isLt
  rw [BitVec.toInt_eq_toNat_cond] at h ⊢
  split_ifs at h ⊢ <;> omega

theorem msb_eq_of_bounds {v p : Nat} (hlo : 2 ^ p ≤ v) (hhi : v < 2 ^ (p + 1)) : msb v = p := by
  have hne : v ≠ 0 := (Nat.two_pow_pos p |>.trans_le hlo).ne'
  exact (Nat.log2_eq_iff hne).2 ⟨hlo, hhi⟩

theorem two_pow_msb_bounds {v : Nat} (h : v ≠ 0) : 2 ^ msb v ≤ v ∧ v < 2 ^ (msb v + 1) :=
  (Nat.log2_eq_iff h).1 rfl

theorem logUnits_bounds {v p : Nat} (hp : p < 31) : -491520 ≤ logUnits v p ∧ logUnits v p ≤ 524287 := by
  have hlt := logFraction_lt 15 (v * 2 ^ (30 - p))
  unfold logUnits
  omega

theorem log2Fix_eq_units {x : Word} {p : Nat} (hlo : 2 ^ p ≤ x.toInt) (hhi : x.toInt < 2 ^ (p + 1)) :
    log2Fix x = BitVec.ofInt 32 (logUnits x.toNat p) := by
  have hpos : 1 ≤ x.toInt := le_trans (by exact_mod_cast Nat.one_le_two_pow) hlo
  have hnat := toNat_toInt_of_pos hpos
  have hv : (sext x).toNat = x.toNat := by
    unfold sext
    omega
  have hmsb : msb x.toNat = p := msb_eq_of_bounds (by exact_mod_cast hnat ▸ hlo) (by exact_mod_cast hnat ▸ hhi)
  unfold log2Fix
  simp only [hv, hmsb, shl_eq]
  rfl

/-- The place of the leading bit of a positive word. -/
theorem exists_leading_bit {x : Word} (h : 1 ≤ x.toInt) : ∃ p < 31, 2 ^ p ≤ x.toInt ∧ x.toInt < 2 ^ (p + 1) := by
  have hnat := toNat_toInt_of_pos h
  have hlt := (toInt_mem_range x).2
  obtain ⟨hlo, hhi⟩ := two_pow_msb_bounds (v := x.toNat) (by omega)
  have hp : msb x.toNat < 31 := (Nat.pow_lt_pow_iff_right (a := 2) (by norm_num)).1 (by omega)
  exact ⟨msb x.toNat, hp, by rw [← hnat]; exact_mod_cast hlo, by rw [← hnat]; exact_mod_cast hhi⟩

theorem toInt_log2Fix {x : Word} {p : Nat} (hp : p < 31) (hlo : 2 ^ p ≤ x.toInt) (hhi : x.toInt < 2 ^ (p + 1)) :
    (log2Fix x).toInt = logUnits x.toNat p := by
  obtain ⟨hge, hle⟩ := logUnits_bounds (v := x.toNat) hp
  rw [log2Fix_eq_units hlo hhi]
  exact sext_wrap32 (by omega) (by omega)

theorem log2Fix_bounds {x : Word} (h : 1 ≤ x.toInt) : -491520 ≤ (log2Fix x).toInt ∧ (log2Fix x).toInt ≤ 524287 := by
  obtain ⟨p, hp, hlo, hhi⟩ := exists_leading_bit h
  rw [toInt_log2Fix hp hlo hhi]
  exact logUnits_bounds hp

/-- Numbers with the same leading bit are ordered by their fractions, others by its place. -/
theorem logUnits_mono {v v' p p' : Nat} (hv : 2 ^ p ≤ v) (hv' : v' < 2 ^ (p' + 1)) (h : v ≤ v') :
    logUnits v p ≤ logUnits v' p' := by
  have hpp : p ≤ p' := Nat.le_of_lt_succ ((Nat.pow_lt_pow_iff_right (by norm_num)).1 (hv.trans_lt (h.trans_lt hv')))
  have hlt := logFraction_lt 15 (v * 2 ^ (30 - p))
  unfold logUnits
  rcases Nat.eq_or_lt_of_le hpp with rfl | hlower
  · have hfrac := logFraction_mono (Nat.mul_le_mul_right (2 ^ (30 - p)) h) 15
    omega
  · omega

theorem log2Fix_mono {x y : Word} (hx : 1 ≤ x.toInt) (hxy : x.toInt ≤ y.toInt) :
    (log2Fix x).toInt ≤ (log2Fix y).toInt := by
  obtain ⟨p, hp, hlo, hhi⟩ := exists_leading_bit hx
  obtain ⟨q, hq, hlo', hhi'⟩ := exists_leading_bit (hx.trans hxy)
  have hxn := toNat_toInt_of_pos hx
  have hyn := toNat_toInt_of_pos (hx.trans hxy)
  rw [toInt_log2Fix hp hlo hhi, toInt_log2Fix hq hlo' hhi']
  refine logUnits_mono ?_ ?_ (by omega)
  · rw [← hxn] at hlo
    exact_mod_cast hlo
  · rw [← hyn] at hhi'
    exact_mod_cast hhi'

/-! ## The squarings one by one -/

/-- The mantissa after `k` squarings. -/
def mantissaAfter (m : Nat) : Nat → Nat
  | 0 => m
  | k + 1 =>
    let q := mantissaAfter m k * mantissaAfter m k / 2 ^ 30
    if 2 ^ 31 ≤ q then q / 2 else q

/-- The fraction bits found by the first `k` squarings. -/
def fractionAfter (m : Nat) : Nat → Nat
  | 0 => 0
  | k + 1 =>
    if 2 ^ 31 ≤ mantissaAfter m k * mantissaAfter m k / 2 ^ 30 then fractionAfter m k + 2 ^ (14 - k)
    else fractionAfter m k

theorem logFraction_eq_after (m : Nat) {k : Nat} (hk : k ≤ 15) :
    logFraction 15 m = fractionAfter m k + logFraction (15 - k) (mantissaAfter m k) := by
  induction k with
  | zero => simp [fractionAfter, mantissaAfter]
  | succ k ih =>
    have hplaces : 15 - k = 14 - k + 1 := by omega
    rw [ih (by omega), hplaces, show 15 - (k + 1) = 14 - k by omega, fractionAfter, mantissaAfter]
    rcases Nat.lt_or_ge (mantissaAfter m k * mantissaAfter m k / 2 ^ 30) (2 ^ 31) with hlt | hge
    · rw [if_neg hlt.not_ge, if_neg hlt.not_ge, logFraction_of_lt hlt]
    · rw [if_pos hge, if_pos hge, logFraction_of_ge hge, Nat.add_assoc]

/-- Settles O29: a power of two has mantissa 1.0, whose squares leave no bit; range, order and squarings are those of the
fraction. -/
theorem logarithmIsMonotone : Obligations.LogarithmIsMonotone := by
  refine ⟨fun p hp => ?powers, fun x => log2Fix_bounds, fun x y => log2Fix_mono, fun x p hlo hhi => ?squarings, by decide⟩
  case powers =>
    have hlt : 2 ^ p < 2 ^ 31 := Nat.pow_lt_pow_right (by norm_num) hp
    have htoNat : (BitVec.ofNat 32 (2 ^ p)).toNat = 2 ^ p := by
      rw [BitVec.toNat_ofNat, Nat.mod_eq_of_lt (by omega)]
    have htoInt : (BitVec.ofNat 32 (2 ^ p)).toInt = 2 ^ p := by
      rw [BitVec.toInt_eq_toNat_of_lt (by omega), htoNat]
      push_cast
      rfl
    have hmantissa : 2 ^ p * 2 ^ (30 - p) = 2 ^ 30 := by rw [← pow_add, Nat.add_sub_cancel' (by omega)]
    have hnext : (2 : Int) ^ p < 2 ^ (p + 1) := pow_lt_pow_right₀ (by norm_num) (Nat.lt_succ_self p)
    rw [log2Fix_eq_units htoInt.ge (htoInt.trans_lt hnext), logUnits, htoNat, hmantissa, logFraction_one]
    simp
  case squarings =>
    refine ⟨mantissaAfter (x.toNat * 2 ^ (30 - p)), fractionAfter (x.toNat * 2 ^ (30 - p)), rfl, rfl,
      fun k _ => ⟨fun hge => ⟨if_pos hge, if_pos hge⟩, fun hlt => ⟨if_neg hlt.not_ge, if_neg hlt.not_ge⟩⟩, ?_⟩
    have hbits := logFraction_eq_after (x.toNat * 2 ^ (30 - p)) (le_refl 15)
    rw [log2Fix_eq_units hlo hhi, logUnits, hbits]
    simp [logFraction, logBits]

end Sys2Proof.Machine
end

section
/-!
The logarithm against the real one (43_note_mapper.md R182). A mantissa `m` stands for `m / 2^30` in [1, 2); squaring it
doubles its real logarithm, and the integer part that comes out of that is the next fraction bit.
-/
namespace Sys2Proof.Machine

/-- The real base-2 logarithm of a mantissa. -/
noncomputable def mantissaLog (m : Nat) : ℝ := Real.logb 2 ((m : ℝ) / 2 ^ 30)

theorem mantissaLog_nonneg {m : Nat} (h : 2 ^ 30 ≤ m) : 0 ≤ mantissaLog m := by
  have hcast : ((2 ^ 30 : ℕ) : ℝ) ≤ m := Nat.cast_le.2 h
  refine Real.logb_nonneg (by norm_num) ((one_le_div (by positivity)).2 ?_)
  exact_mod_cast hcast

theorem mantissaLog_lt_one {m : Nat} (hpos : 0 < m) (h : m < 2 ^ 31) : mantissaLog m < 1 := by
  have hcast : (m : ℝ) < ((2 ^ 31 : ℕ) : ℝ) := Nat.cast_lt.2 h
  have hpos' : (0 : ℝ) < m := Nat.cast_pos.2 hpos
  rw [mantissaLog, Real.logb_lt_iff_lt_rpow (by norm_num) (by positivity), Real.rpow_one, div_lt_iff₀ (by positivity)]
  push_cast at hcast
  linarith

theorem logb_two_one_add_lt {x : ℝ} (hx : 0 < x) : Real.logb 2 (1 + x) < 2 * x := by
  have hlog := Real.log_lt_sub_one_of_pos (x := 1 + x) (by linarith) (by linarith)
  have htwo : 1 / 2 < Real.log 2 := by
    linarith [Real.log_two_gt_d9]
  rw [Real.logb, div_lt_iff₀ (by linarith)]
  nlinarith

/-- One squaring with integer part `c`: the logarithm doubles, less `c`, and the floor costs almost nothing. -/
theorem mantissaLog_square {m q c : Nat} (hm : 0 < m) (hq : 2 ^ 30 ≤ q) (hdef : q = m * m / 2 ^ (30 + c)) :
    mantissaLog q + c ≤ 2 * mantissaLog m ∧ 2 * mantissaLog m < mantissaLog q + c + 1 / 2 ^ 15 := by
  have hmR : (0 : ℝ) < m := Nat.cast_pos.2 hm
  have hqR : (2 : ℝ) ^ 30 ≤ q := by exact_mod_cast hq
  have hq0 : (0 : ℝ) < q := by linarith [show (0 : ℝ) < 2 ^ 30 by positivity]
  have hlo : (q : ℝ) * 2 ^ (30 + c) ≤ m * m := by
    have hfloor : q * 2 ^ (30 + c) ≤ m * m := by rw [hdef]; exact Nat.div_mul_le_self _ _
    exact_mod_cast hfloor
  have hhi : (m : ℝ) * m < (q + 1) * 2 ^ (30 + c) := by
    have hfloor : m * m < (q + 1) * 2 ^ (30 + c) := by
      rw [hdef]
      exact (Nat.div_lt_iff_lt_mul (Nat.two_pow_pos _)).1 (Nat.lt_succ_self _)
    exact_mod_cast hfloor
  have hdouble : 2 * mantissaLog m = Real.logb 2 ((m : ℝ) * m / 2 ^ 60) := by
    rw [mantissaLog, two_mul, ← Real.logb_mul (by positivity) (by positivity)]
    congr 1
    ring
  have hshift (y : ℝ) (hy : 0 < y) : Real.logb 2 (y / 2 ^ 30 * 2 ^ c) = Real.logb 2 (y / 2 ^ 30) + c := by
    rw [Real.logb_mul (by positivity) (by positivity), Real.logb_pow, Real.logb_self_eq_one (by norm_num), mul_one]
  have hsplit : ((q : ℝ) + 1) / 2 ^ 30 = q / 2 ^ 30 * (1 + 1 / q) := by
    field_simp
  have hround : Real.logb 2 (((q : ℝ) + 1) / 2 ^ 30) < mantissaLog q + 1 / 2 ^ 15 := by
    have hsmall : 2 * (1 / (q : ℝ)) ≤ 1 / 2 ^ 15 := by
      rw [mul_one_div, div_le_div_iff₀ hq0 (by positivity)]
      linarith
    have hstep := logb_two_one_add_lt (one_div_pos.2 hq0)
    rw [hsplit, Real.logb_mul (by positivity) (by positivity)]
    unfold mantissaLog
    linarith
  have hpow : (2 : ℝ) ^ (30 + c) = 2 ^ 30 * 2 ^ c := pow_add _ _ _
  rw [hdouble]
  constructor
  · rw [mantissaLog, ← hshift q hq0]
    refine Real.logb_le_logb_of_le (by norm_num) (by positivity) ?_
    rw [hpow] at hlo
    rw [div_mul_eq_mul_div, div_le_div_iff₀ (by positivity) (by positivity)]
    nlinarith
  · have hlt : Real.logb 2 ((m : ℝ) * m / 2 ^ 60) < Real.logb 2 (((q : ℝ) + 1) / 2 ^ 30 * 2 ^ c) := by
      refine Real.logb_lt_logb (by norm_num) (by positivity) ?_
      rw [hpow] at hhi
      rw [div_mul_eq_mul_div, div_lt_div_iff₀ (by positivity) (by positivity)]
      nlinarith
    rw [hshift _ (by linarith)] at hlt
    linarith

/-- The fraction bits never exceed the logarithm of the mantissa and fall short of it by less than one unit and the
floors of the squarings. -/
theorem logFraction_error {m : Nat} (hlo : 2 ^ 30 ≤ m) (hhi : m < 2 ^ 31) (b : Nat) :
    (logFraction b m : ℝ) ≤ 2 ^ b * mantissaLog m ∧
      2 ^ b * mantissaLog m < logFraction b m + 1 + (2 ^ b - 1) * (1 / 2 ^ 15) := by
  induction b generalizing m with
  | zero =>
    have hnonneg := mantissaLog_nonneg hlo
    have hlt := mantissaLog_lt_one (by omega) hhi
    have hzero : logFraction 0 m = 0 := rfl
    rw [hzero]
    constructor
    · simpa using hnonneg
    · simpa using hlt
  | succ b ih =>
    have hsquare : 2 ^ 60 ≤ m * m := by
      calc 2 ^ 60 = 2 ^ 30 * 2 ^ 30 := by norm_num
        _ ≤ m * m := Nat.mul_le_mul hlo hlo
    have hsquare' : m * m < 2 ^ 62 := by
      calc m * m < 2 ^ 31 * 2 ^ 31 := Nat.mul_lt_mul'' hhi hhi
        _ = 2 ^ 62 := by norm_num
    have hpow : (2 : ℝ) ^ (b + 1) = 2 ^ b * 2 := pow_succ _ _
    have hpos : (0 : ℝ) < 2 ^ b := by positivity
    rcases Nat.lt_or_ge (m * m / 2 ^ 30) (2 ^ 31) with hlt | hge
    · obtain ⟨hle, hgt⟩ := mantissaLog_square (c := 0) (by omega) (by omega) (show m * m / 2 ^ 30 = _ from rfl)
      obtain ⟨ihle, ihlt⟩ := ih (m := m * m / 2 ^ 30) (by omega) hlt
      rw [logFraction_of_lt hlt, hpow]
      push_cast at hle hgt
      constructor <;> nlinarith
    · have hdiv : m * m / 2 ^ 30 / 2 = m * m / 2 ^ (30 + 1) := Nat.div_div_eq_div_mul ..
      obtain ⟨hle, hgt⟩ := mantissaLog_square (c := 1) (by omega) (by omega) hdiv
      obtain ⟨ihle, ihlt⟩ := ih (m := m * m / 2 ^ 30 / 2) (by omega) (by omega)
      rw [logFraction_of_ge hge, hpow]
      push_cast at hle hgt ⊢
      constructor <;> nlinarith

/-- The real logarithm of a Fix is the place of its leading bit and the logarithm of its mantissa. -/
theorem logb_fix_eq {v p : Nat} (hv : 0 < v) (hp : p ≤ 30) :
    Real.logb 2 ((v : ℝ) / 2 ^ 15) = (p : ℝ) - 15 + mantissaLog (v * 2 ^ (30 - p)) := by
  have hvR : (0 : ℝ) < v := Nat.cast_pos.2 hv
  have hscale : (2 : ℝ) ^ 30 = 2 ^ p * 2 ^ (30 - p) := by rw [← pow_add, Nat.add_sub_cancel' hp]
  have hmantissa : ((v * 2 ^ (30 - p) : ℕ) : ℝ) / 2 ^ 30 = v / 2 ^ p := by
    rw [hscale]
    push_cast
    field_simp
  rw [mantissaLog, hmantissa, Real.logb_div (by positivity) (by positivity), Real.logb_div (by positivity) (by positivity),
    Real.logb_pow, Real.logb_pow, Real.logb_self_eq_one (by norm_num)]
  push_cast
  ring

/-- Settles O30: at fifteen bits the floors of the squarings cost less than one unit. -/
theorem logarithmNeverExceedsTheTrueOne : Obligations.LogarithmNeverExceedsTheTrueOne := by
  intro x hx
  obtain ⟨p, hp, hlo, hhi⟩ := exists_leading_bit hx
  have hnat := toNat_toInt_of_pos hx
  have hvlo : 2 ^ p ≤ x.toNat := by
    rw [← hnat] at hlo
    exact_mod_cast hlo
  have hvhi : x.toNat < 2 ^ (p + 1) := by
    rw [← hnat] at hhi
    exact_mod_cast hhi
  have hmlo : 2 ^ 30 ≤ x.toNat * 2 ^ (30 - p) := by
    calc 2 ^ 30 = 2 ^ p * 2 ^ (30 - p) := by rw [← pow_add, Nat.add_sub_cancel' (by omega)]
      _ ≤ _ := Nat.mul_le_mul_right _ hvlo
  have hmhi : x.toNat * 2 ^ (30 - p) < 2 ^ 31 := by
    calc x.toNat * 2 ^ (30 - p) < 2 ^ (p + 1) * 2 ^ (30 - p) := Nat.mul_lt_mul_of_pos_right hvhi (Nat.two_pow_pos _)
      _ = 2 ^ 31 := by rw [← pow_add]; congr 1; omega
  obtain ⟨hle, hlt⟩ := logFraction_error hmlo hmhi 15
  have hlog := logb_fix_eq (v := x.toNat) (p := p) (by omega) (by omega)
  have hcast : (x.toInt : ℝ) = x.toNat := by rw [← hnat]; simp
  have hunits : ((log2Fix x).toInt : ℝ) = ((p : ℝ) - 15) * 2 ^ 15 + logFraction 15 (x.toNat * 2 ^ (30 - p)) := by
    rw [toInt_log2Fix hp hlo hhi, logUnits]
    norm_num
  rw [hcast, hlog, hunits]
  constructor
  · rw [div_le_iff₀ (by positivity)]
    linarith
  · rw [lt_div_iff₀ (by positivity)]
    linarith

end Sys2Proof.Machine
end

section
/-!
The note mapper (43_note_mapper.md sections 1 and 4): the range of NOTE and CENTS, an entry that maps to itself, the
ascending table of a reference, and the round trip of 440.
-/
namespace Sys2Proof.Machine

/-! ## Cents of a bracket

With `x` units of logarithm from the lower neighbour and `y` up to the upper one, the two fractions of the log-width
`x + y` add up to at most 1, so the smaller one is at most a half. -/

theorem fractions_add_le {x y : Int} (hx : 0 ≤ x) (hy : 0 ≤ y) (hpos : 0 < x + y) :
    0 ≤ x * 2 ^ 15 / (x + y) ∧ 0 ≤ y * 2 ^ 15 / (x + y) ∧ x * 2 ^ 15 / (x + y) + y * 2 ^ 15 / (x + y) ≤ 2 ^ 15 := by
  have hlower := Int.ediv_mul_le (x * 2 ^ 15) hpos.ne'
  have hupper := Int.ediv_mul_le (y * 2 ^ 15) hpos.ne'
  refine ⟨Int.ediv_nonneg (by omega) hpos.le, Int.ediv_nonneg (by omega) hpos.le, ?_⟩
  refine le_of_mul_le_mul_right ?_ hpos
  rw [Int.add_mul]
  linarith

/-- A distance of logarithms is divided by the log-width without a wrap. -/
theorem toInt_bracketFraction {a b span : Word} {d : Int} (hspan : span.toInt = d) (hd : 0 < d) (hd' : d < 2 ^ 20)
    (hge : 0 ≤ b.toInt - a.toInt) (hle : b.toInt - a.toInt ≤ d) :
    (bracketFraction a b span).toInt = (b.toInt - a.toInt) * 2 ^ 15 / d := by
  have hdist : (BitVec.ofInt 32 (b.toInt - a.toInt)).toInt = b.toInt - a.toInt :=
    sext_wrap32 (by omega) (by omega)
  obtain ⟨hnonneg, hnonneg', hsum⟩ :=
    fractions_add_le (x := b.toInt - a.toInt) (y := d - (b.toInt - a.toInt)) hge (by omega) (by omega)
  rw [add_sub_cancel] at hnonneg hnonneg' hsum
  rw [bracketFraction, hspan, hdist, Int.tdiv_eq_ediv_of_nonneg (by omega)]
  exact sext_wrap32 (by omega) (by omega)

theorem toInt_wrap32_range {v lo hi : Int} (h : lo ≤ v ∧ v ≤ hi) (hlo : -2147483648 ≤ lo) (hhi : hi < 2147483648) :
    lo ≤ (wrap32 v).toInt ∧ (wrap32 v).toInt ≤ hi := by
  obtain ⟨hge, hle⟩ := h
  have hv : (wrap32 v).toInt = v := sext_wrap32 (hlo.trans hge) (hle.trans_lt hhi)
  rw [hv]
  exact ⟨hge, hle⟩

/-- At most half a semitone is at most 50 cents. -/
theorem centsOf_range {d : Word} (hge : 0 ≤ d.toInt) (hle : d.toInt ≤ 2 ^ 14) : 0 ≤ centsOf d ∧ centsOf d ≤ 50 := by
  rw [centsOf_eq]
  omega

/-- Between a positive lower entry and an upper one the note is one of the two and the cents lie within -50 .. 50. -/
theorem mapInBracket_range {f lower upper c : Word} {j n : Nat} (hpos : 1 ≤ lower.toInt) (hlow : lower.toInt ≤ f.toInt)
    (hhigh : f.toInt ≤ upper.toInt) (h : mapInBracket f lower upper j = some (n, c)) :
    n ≤ j + 1 ∧ -50 ≤ c.toInt ∧ c.toInt ≤ 50 := by
  have hlf := log2Fix_mono hpos hlow
  have hfu := log2Fix_mono (hpos.trans hlow) hhigh
  obtain ⟨hlge, _⟩ := log2Fix_bounds hpos
  obtain ⟨_, hule⟩ := log2Fix_bounds ((hpos.trans hlow).trans hhigh)
  have hspan : bracketSpan lower upper ≠ 0 := fun h0 => by
    cases (mapInBracket_of_span_eq h0 j).symm.trans h
  have hwidth : (bracketSpan lower upper).toInt = (log2Fix upper).toInt - (log2Fix lower).toInt :=
    sext_wrap32 (by simp only [sext]; omega) (by simp only [sext]; omega)
  have hne : (log2Fix upper).toInt - (log2Fix lower).toInt ≠ 0 := hwidth ▸ toInt_ne_zero hspan
  have hfl := toInt_bracketFraction (a := log2Fix lower) (b := log2Fix f) hwidth (by omega) (by omega) (by omega) (by omega)
  have hfu' := toInt_bracketFraction (a := log2Fix f) (b := log2Fix upper) hwidth (by omega) (by omega) (by omega) (by omega)
  obtain ⟨hfl0, hfu0, hsum⟩ := fractions_add_le (x := (log2Fix f).toInt - (log2Fix lower).toInt)
    (y := (log2Fix upper).toInt - (log2Fix f).toInt) (by omega) (by omega) (by omega)
  rw [sub_add_sub_cancel', ← hfl, ← hfu'] at hsum
  rw [sub_add_sub_cancel', ← hfl] at hfl0
  rw [sub_add_sub_cancel', ← hfu'] at hfu0
  rcases mapInBracket_of_span_ne (f := f) hspan j with ⟨hnear, hmap⟩ | ⟨hnear, hmap⟩
  · cases hmap.symm.trans h
    obtain ⟨hge, hle⟩ := centsOf_range hfl0 (by omega)
    exact ⟨Nat.le_succ j, toInt_wrap32_range ⟨by omega, hle⟩ (by norm_num) (by norm_num)⟩
  · cases hmap.symm.trans h
    obtain ⟨hge, hle⟩ := centsOf_range hfu0 (by omega)
    exact ⟨le_rfl, toInt_wrap32_range ⟨by omega, by omega⟩ (by norm_num) (by norm_num)⟩

theorem lutLen_le {c : Config} (h : c.sizesOk) : 60 ≤ lutLen c ∧ lutLen c ≤ 120 := by
  obtain ⟨_, _, _, _, _, _, ⟨hlo, hhi⟩, _⟩ := h
  unfold lutLen
  omega

theorem noteInv_note {s : State} {j n : Nat} {c : Word} (hsize : s.cfg.sizesOk)
    (hj : firstAbove s s.opa = some (j + 1)) (hpos : 0 < sext (s.mem.word .lut j))
    (hmap : mapInBracket s.opa (s.mem.word .lut j) (s.mem.word .lut (j + 1)) j = some (n, c)) :
    NoteInv { s with note := BitVec.ofNat 32 n, cents := c, maprange := false } := by
  obtain ⟨hlen, habove, hbelow⟩ := firstAbove_eq_some.1 hj
  obtain ⟨hn, hge, hle⟩ := mapInBracket_range hpos (hbelow j (Nat.lt_succ_self j)) habove.le hmap
  have hlutLen := lutLen_le hsize
  refine ⟨?_, hge, hle⟩
  show (BitVec.ofNat 32 n).toNat < lutLen s.cfg
  rw [BitVec.toNat_ofNat, Nat.mod_eq_of_lt (by omega)]
  omega

theorem noteInv_command {i : Instr} {s t : State} (hsize : s.cfg.sizesOk) (h : NoteInv s)
    (hout : CommandOutcome s i t) : NoteInv t := by
  by_cases hi : i = .mapfreq
  · subst hi
    cases hout with
    | outOfRange => exact h
    | zeroWidth => exact h
    | note j n c hj hpos hmap => exact noteInv_note hsize hj hpos hmap
  · obtain ⟨hnote, hcents, _⟩ := command_keeps_note hout hi
    unfold NoteInv
    rw [hnote, hcents, command_cfg hout]
    exact h

theorem noteInv_event {e : Event} {s t : State} (hsize : s.cfg.sizesOk) (h : NoteInv s) (hout : EventOutcome s e t) :
    NoteInv t := by
  cases hout with
  | reset =>
    have hlen := lutLen_le hsize
    exact ⟨show 0 < lutLen s.cfg by omega, show -50 ≤ sext 0 by decide, show sext 0 ≤ 50 by decide⟩
  | command v i t _ _ hcmd => exact noteInv_command hsize h hcmd
  | tick u t _ htone hbeat => rw [tick_frame htone hbeat]; exact h
  | _ => exact h

/-- Settles O32: only MAPFREQ writes NOTE and CENTS, with the values of a bracket. -/
theorem everyStepKeepsNoteAndCentsInRange : Obligations.EveryStepKeepsNoteAndCentsInRange := by
  intro s t hinv h hstep
  rcases step_outcome hstep with ⟨_, rfl⟩ | ⟨e, rest, _, hout⟩
  · exact h
  · exact noteInv_event (s := { s with events := rest }) hinv.sizesOk h hout

/-! ## An entry maps to itself -/

/-- At the lower end of its bracket the distance below is 0 and the distance above a whole log-width. -/
theorem mapInBracket_lower_self {lower upper : Word} (h : log2Fix lower ≠ log2Fix upper) (j : Nat) :
    mapInBracket lower lower upper j = some (j, 0) := by
  have hspan : bracketSpan lower upper ≠ 0 := fun h0 => h (wrap32_sub_eq_zero.1 h0).symm
  have hbelow : bracketFraction (log2Fix lower) (log2Fix lower) (bracketSpan lower upper) = 0 := by
    simp [bracketFraction]
  have habove : bracketFraction (log2Fix lower) (log2Fix upper) (bracketSpan lower upper) = fixOne :=
    Option.some.inj ((fxdiv_of_ne hspan).symm.trans (fxdiv_self hspan))
  rcases mapInBracket_of_span_ne (f := lower) hspan j with ⟨_, hmap⟩ | ⟨hlt, _⟩
  · rw [hmap, hbelow]
    rfl
  · rw [hbelow, habove] at hlt
    exact absurd hlt (by decide)

/-- Settles O33: on an ascending table the first entry above entry `i` is the next one. -/
theorem tableEntryMapsToItself : Obligations.TableEntryMapsToItself := by
  intro s i hi _ hpos hasc hlog hopa
  have hscan : firstAbove s s.opa = some (i + 1) := by
    refine firstAbove_eq_some.2 ⟨hi, ?_, fun k hk => ?_⟩
    · rw [hopa]
      exact hasc i (i + 1) (Nat.lt_succ_self i) hi
    · rw [hopa]
      rcases Nat.eq_or_lt_of_le (Nat.le_of_lt_succ hk) with rfl | hlt
      · exact le_rfl
      · exact (hasc k i hlt (by omega)).le
  have hpos' : 0 < sext (s.mem.word .lut i) := by
    rcases Nat.eq_zero_or_pos i with rfl | hlt
    · exact hpos
    · exact hpos.trans (hasc 0 i hlt (by omega))
  have hmap := mapInBracket_lower_self hlog i
  rw [← hopa] at hmap
  nth_rewrite 2 [hopa] at hmap
  exact exec_mapfreq_note hscan hpos' hmap

/-! ## The table of a reference

At 20 fraction bits every entry is the reference times a fixed scale, the semitone's SEMI doubled once per octave. -/

/-- `2^((i − 57)/12)` with 35 fraction bits, exact but for SEMI's own rounding. -/
def lutScale (i : Nat) : Nat := semiAt ((i + 3) % 12) * 2 ^ ((i + 3) / 12)

/-- An entry as a number of units, before its narrowing. -/
def lutUnits (ref i : Nat) : Nat := (ref * lutScale i + 2 ^ 19) / 2 ^ 20

theorem lutEntry_eq_units {i : Nat} (hi : i < 120) (ref : Nat) : lutEntry ref i = BitVec.ofNat 32 (lutUnits ref i) := by
  obtain ⟨n, hn⟩ : ∃ n, n + 1 + (i + 3) / 12 = 20 := ⟨19 - (i + 3) / 12, by omega⟩
  have hentry := lutEntry_octave (o := ((i + 3) / 12 : Nat) - 5) (i := i) (s := (i + 3) % 12) (n := n + 1)
    (Nat.mod_lt _ (by norm_num)) (by omega) (by omega) ref
  have hscale : ref * lutScale i + 2 ^ 19 = (ref * semiAt ((i + 3) % 12) + 2 ^ n) * 2 ^ ((i + 3) / 12) := by
    have hhalf : 2 ^ 19 = 2 ^ n * 2 ^ ((i + 3) / 12) := by
      rw [← pow_add]
      congr 1
      omega
    rw [lutScale, hhalf]
    ring
  have hunit : 2 ^ 20 = 2 ^ (n + 1) * 2 ^ ((i + 3) / 12) := by rw [← pow_add, hn]
  rw [hentry, lutUnits, hscale, hunit, Nat.mul_div_mul_right _ _ (Nat.two_pow_pos _), Nat.add_sub_cancel]

theorem lutScale_step : ∀ i < 119, lutScale i + 2 ^ 20 ≤ lutScale (i + 1) := by decide

theorem lutScale_gap {i j : Nat} (hij : i < j) (hj : j < 120) : lutScale i + 2 ^ 20 ≤ lutScale j := by
  induction j, hij using Nat.le_induction with
  | base => exact lutScale_step i (by omega)
  | succ k hk ih =>
    have hstep := lutScale_step k (by omega)
    have hrest := ih (by omega)
    omega

/-- A reference of at least 1 keeps the scales apart by a whole unit. -/
theorem lutUnits_lt {ref i j : Nat} (href : 1 ≤ ref) (hij : i < j) (hj : j < 120) : lutUnits ref i < lutUnits ref j := by
  have hgap : ref * lutScale i + 2 ^ 20 ≤ ref * lutScale j := by
    calc ref * lutScale i + 2 ^ 20 ≤ ref * lutScale i + ref * 2 ^ 20 := by omega
      _ = ref * (lutScale i + 2 ^ 20) := (Nat.mul_add _ _ _).symm
      _ ≤ ref * lutScale j := Nat.mul_le_mul_left _ (lutScale_gap hij hj)
  unfold lutUnits
  omega

theorem lutUnits_pos {ref i : Nat} (href : 1 ≤ ref) (hi : i < 120) : 0 < lutUnits ref i := by
  have hfirst : 0 < lutUnits ref 0 := by
    have hscale : 2 ^ 20 ≤ lutScale 0 := by decide
    have hge : 2 ^ 20 ≤ ref * lutScale 0 := hscale.trans (Nat.le_mul_of_pos_left _ href)
    unfold lutUnits
    omega
  rcases Nat.eq_zero_or_pos i with rfl | hpos
  · exact hfirst
  · exact hfirst.trans (lutUnits_lt href hpos hi)

theorem lutScale_top {octaves : Nat} (hpos : 1 ≤ octaves) : lutScale (12 * octaves - 1) = semiAt 2 * 2 ^ octaves := by
  rw [lutScale, show (12 * octaves - 1 + 3) % 12 = 2 by omega, show (12 * octaves - 1 + 3) / 12 = octaves by omega]

/-- The last entry, the D above the highest A of the table, stays below 65536 Hz. -/
theorem lutUnits_top_lt {ref octaves : Nat} (hoct : 5 ≤ octaves) (href : ref ^ 12 * 2 ^ (12 * octaves - 58) < 65536 ^ 12) :
    lutUnits ref (12 * octaves - 1) < 2 ^ 31 := by
  have hpow : (ref * 2 ^ octaves) ^ 12 < 1868351 ^ 12 := by
    calc (ref * 2 ^ octaves) ^ 12 = ref ^ 12 * 2 ^ (12 * octaves - 58) * 2 ^ 58 := by
          rw [mul_pow, ← pow_mul, mul_assoc, ← pow_add]
          congr 2
          omega
      _ < 65536 ^ 12 * 2 ^ 58 := Nat.mul_lt_mul_of_pos_right href (by norm_num)
      _ ≤ 1868351 ^ 12 := by norm_num
  have hlt := lt_of_pow_lt_pow_left₀ 12 (Nat.zero_le _) hpow
  have hsemi : semiAt 2 = 0x47D66B0F := rfl
  have hscale : ref * lutScale (12 * octaves - 1) = ref * 2 ^ octaves * semiAt 2 := by
    rw [lutScale_top (by omega)]
    ring
  rw [lutUnits, hscale, hsemi]
  omega

theorem toInt_lutEntry {c : Config} {ref i : Nat} (hsize : c.sizesOk) (href : 1 ≤ ref)
    (htop : ref ^ 12 * 2 ^ (lutLen c - 58) < 65536 ^ 12) (hi : i < lutLen c) :
    (lutEntry ref i).toInt = lutUnits ref i := by
  have hlen := lutLen_le hsize
  have hoct : lutLen c = 12 * c.numOctaves := rfl
  have hlast : lutUnits ref (lutLen c - 1) < 2 ^ 31 := lutUnits_top_lt (by omega) htop
  have hle : lutUnits ref i ≤ lutUnits ref (lutLen c - 1) := by
    rcases Nat.eq_or_lt_of_le (Nat.le_sub_one_of_lt hi) with rfl | hlt
    · exact le_rfl
    · exact (lutUnits_lt href hlt (by omega)).le
  have hnat : (BitVec.ofNat 32 (lutUnits ref i)).toNat = lutUnits ref i := by
    rw [BitVec.toNat_ofNat, Nat.mod_eq_of_lt (by omega)]
  rw [lutEntry_eq_units (by omega), BitVec.toInt_eq_toNat_of_lt (by omega), hnat]

/-- Settles O28: without a wrap the entries are their units, and the units ascend. -/
theorem referenceTableIsStrictlyAscending : Obligations.ReferenceTableIsStrictlyAscending := by
  intro c ref hc href htop
  obtain ⟨hsize, _, _⟩ := hc
  have hlen := lutLen_le hsize
  refine ⟨?_, fun i j hij hj => ?_⟩
  · rw [toInt_lutEntry hsize href htop (by omega)]
    exact_mod_cast lutUnits_pos href (by omega)
  · rw [toInt_lutEntry hsize href htop (hij.trans hj), toInt_lutEntry hsize href htop hj]
    exact_mod_cast lutUnits_lt href hij (by omega)

/-! ## The round trip of 440 -/

theorem lutEntry_440_logs_differ :
    log2Fix (lutEntry 440 57) ≠ log2Fix (lutEntry 440 58) ∧ log2Fix (lutEntry 440 45) ≠ log2Fix (lutEntry 440 46) := by
  decide

/-- MAPFREQ of an entry of the table of 440 gives its index. -/
theorem exec_mapfreq_440 {s : State} {i : Nat} (hc : s.cfg.wf)
    (hlut : ∀ k < lutLen s.cfg, s.mem.word .lut k = lutEntry 440 k) (hi : i + 1 < lutLen s.cfg)
    (hlog : log2Fix (lutEntry 440 i) ≠ log2Fix (lutEntry 440 (i + 1))) (hopa : s.opa = lutEntry 440 i) :
    exec .mapfreq s = .next { s with note := BitVec.ofNat 32 i, cents := 0, maprange := false } := by
  obtain ⟨hsize, _, _⟩ := id hc
  obtain ⟨hlo, hhi⟩ := lutLen_le hsize
  have htop : 440 ^ 12 * 2 ^ (lutLen s.cfg - 58) < 65536 ^ 12 := by
    calc 440 ^ 12 * 2 ^ (lutLen s.cfg - 58) ≤ 440 ^ 12 * 2 ^ 62 :=
          Nat.mul_le_mul_left _ (Nat.pow_le_pow_right (by norm_num) (by omega))
      _ < 65536 ^ 12 := by norm_num
  obtain ⟨hpos, hasc⟩ := referenceTableIsStrictlyAscending s.cfg 440 hc (by norm_num) htop
  refine tableEntryMapsToItself s i hi (by omega) ?_ (fun j k hjk hk => ?_) ?_ ?_
  · rw [hlut 0 (by omega)]
    exact hpos
  · rw [hlut j (hjk.trans hk), hlut k hk]
    exact hasc j k hjk hk
  · rw [hlut i (by omega), hlut (i + 1) hi]
    exact hlog
  · rw [hopa, hlut i (by omega)]

/-- Settles O34: SETREF leaves the table of 440, whose entries 57 and 45 are 440.0 and 220.0. -/
theorem reference440MapsToNote57 : Obligations.Reference440MapsToNote57 := by
  intro s hc hopa
  obtain ⟨t, hexec, hframe, hlut, _⟩ := setrefRebuildsTheWholeTable s
  obtain ⟨hsize, _, _⟩ := id hc
  have hlen := lutLen_le hsize
  have hcfg : t.cfg = s.cfg := by rw [hframe]
  have hwords (k : Nat) (hk : k < lutLen t.cfg) : t.mem.word .lut k = lutEntry 440 k := by
    rw [hlut k (hcfg ▸ hk), hopa]
    rfl
  obtain ⟨hlogA4, hlogA3⟩ := lutEntry_440_logs_differ
  refine ⟨t, hexec, ?_, ?_⟩
  · exact exec_mapfreq_440 (s := { t with opa := 0x00DC0000 }) (i := 57) (hcfg ▸ hc) hwords
      (by simp only [hcfg]; omega) hlogA4 (by decide : (0x00DC0000 : Word) = lutEntry 440 57)
  · exact exec_mapfreq_440 (s := { t with opa := 0x006E0000 }) (i := 45) (hcfg ▸ hc) hwords
      (by simp only [hcfg]; omega) hlogA3 (by decide : (0x006E0000 : Word) = lutEntry 440 45)

end Sys2Proof.Machine
end

section
/-!
The magnitude step (41_estimate.md R131), the interpolation on magnitudes whose denominator fits (R136), and the smoother
on an estimate in the band (42_smoother.md R155, section 3).
-/
namespace Sys2Proof.Machine

/-! ## The integer root -/

/-- The bits still to come decide between `s` and the next multiple of `2^b` above it. -/
theorem isqrtBits_spec {v b s : Nat} (hlo : s * s ≤ v) (hhi : v < (s + 2 ^ b) * (s + 2 ^ b)) :
    isqrtBits v b s * isqrtBits v b s ≤ v ∧ v < (isqrtBits v b s + 1) * (isqrtBits v b s + 1) := by
  induction b generalizing s with
  | zero => exact ⟨hlo, hhi⟩
  | succ b ih =>
    rw [isqrtBits]
    split_ifs with htry
    · refine ih htry ?_
      rwa [Nat.add_assoc, ← Nat.two_mul, ← pow_succ']
    · exact ih hlo (Nat.not_le.1 htry)

theorem isqrt_spec (v : Nat) : isqrt v * isqrt v ≤ v ∧ v < (isqrt v + 1) * (isqrt v + 1) := by
  refine isqrtBits_spec (Nat.zero_le _) ?_
  have htop : v < 2 ^ (v.log2 + 1) := Nat.lt_log2_self
  rw [Nat.zero_add, ← pow_add]
  exact htop.trans_le (Nat.pow_le_pow_right two_pos (by omega))

theorem isqrt_lt {v n : Nat} (h : v < n * n) : isqrt v < n := by
  obtain ⟨hle, _⟩ := isqrt_spec v
  exact Nat.mul_self_lt_mul_self_iff.1 (hle.trans_lt h)

/-! ## The magnitude -/

/-- The sum of the squares of two words, as the root takes it. -/
def squareSum (re im : Word) : Nat := (sext re).natAbs ^ 2 + (sext im).natAbs ^ 2

theorem squareSum_eq (re im : Word) : (squareSum re im : Int) = re.toInt * re.toInt + im.toInt * im.toInt := by
  unfold squareSum sext
  push_cast
  rw [sq_abs, sq_abs]
  ring

theorem squareSum_le (re im : Word) : squareSum re im ≤ 2 ^ 63 := by
  calc squareSum re im ≤ (2 ^ 31) ^ 2 + (2 ^ 31) ^ 2 :=
        Nat.add_le_add (Nat.pow_le_pow_left (natAbs_toInt_le re) 2) (Nat.pow_le_pow_left (natAbs_toInt_le im) 2)
    _ = 2 ^ 63 := by norm_num

theorem magnitude_of_exactRoot {c : Config} (h : c.mag = .exactRoot) (re im : Word) :
    magnitude c re im = BitVec.ofNat 32 (isqrt (squareSum re im)) := by
  rw [magnitude, h]
  exact BitVec.ofInt_natCast ..

/-- The root of a sum of squares needs no more than 32 bits. -/
theorem toNat_magnitude_of_exactRoot {c : Config} (h : c.mag = .exactRoot) (re im : Word) :
    (magnitude c re im).toNat = isqrt (squareSum re im) := by
  have hlt : isqrt (squareSum re im) < 2 ^ 32 := isqrt_lt ((squareSum_le re im).trans_lt (by norm_num))
  rw [magnitude_of_exactRoot h, BitVec.toNat_ofNat, Nat.mod_eq_of_lt hlt]

theorem magnitude_of_replacement {c : Config} {body : MagExpr} (h : c.mag = .replacement body) (re im : Word) :
    magnitude c re im = BitVec.ofNat 32 (magValue (sext re).natAbs (sext im).natAbs body % 2 ^ 31) := by
  rw [magnitude, h]
  exact BitVec.ofInt_natCast ..

/-- A word of 31 bits is not negative. -/
theorem toInt_ofNat_nonneg {n : Nat} (h : n < 2 ^ 31) : 0 ≤ (BitVec.ofNat 32 n).toInt := by
  have hnat : (BitVec.ofNat 32 n).toNat = n := by rw [BitVec.toNat_ofNat, Nat.mod_eq_of_lt (by omega)]
  rw [BitVec.toInt_eq_toNat_of_lt (by omega)]
  exact Int.natCast_nonneg _

theorem natAbs_sext_neg (a : Word) : (sext (-a)).natAbs = (sext a).natAbs := by
  by_cases h : a = 0x80000000
  · subst h
    decide
  · rw [sext, toInt_neg_of_ne_lowest h, Int.natAbs_neg, sext]

/-- The magnitude sees its arguments through their absolute values. -/
theorem magnitude_congr_natAbs {re re' im im' : Word} (hre : (sext re).natAbs = (sext re').natAbs)
    (him : (sext im).natAbs = (sext im').natAbs) (c : Config) : magnitude c re im = magnitude c re' im' := by
  unfold magnitude
  rw [hre, him]

theorem magnitude_nonneg_of_replacement {c : Config} (h : c.mag ≠ .exactRoot) (re im : Word) :
    0 ≤ (magnitude c re im).toInt := by
  cases hm : c.mag with
  | exactRoot => exact absurd hm h
  | replacement body =>
    rw [magnitude_of_replacement hm]
    exact toInt_ofNat_nonneg (Nat.mod_lt _ (by norm_num))

theorem magnitude_nonneg {c : Config} {re im : Word} (h : re.toInt * re.toInt + im.toInt * im.toInt < 2 ^ 62) :
    0 ≤ (magnitude c re im).toInt := by
  by_cases hm : c.mag = .exactRoot
  · have hsum : squareSum re im < 2 ^ 31 * 2 ^ 31 := by
      rw [← squareSum_eq] at h
      omega
    rw [magnitude_of_exactRoot hm]
    exact toInt_ofNat_nonneg (isqrt_lt hsum)
  · exact magnitude_nonneg_of_replacement hm re im

/-- Settles O16: the words are the rule for the magnitude step; the root's two inequalities and the absolute values give
the rest. -/
theorem magnitudeIsTheIntegerRoot : Obligations.MagnitudeIsTheIntegerRoot := by
  refine ⟨fun s => ⟨fun k hk => ?words, fun sp hsp => s4Magnitude_word_ne s hsp, s4Magnitude_bank s, rfl⟩,
    fun c re im => ⟨?signRe, ?signIm, magnitude_nonneg, fun h => magnitude_nonneg_of_replacement h re im⟩⟩
  case words =>
    have hword := s4Magnitude_word_fr s hk
    refine ⟨hword, fun hm => ?_⟩
    obtain ⟨hle, hlt⟩ := isqrt_spec (squareSum (s.mem.word .fr k) (s.mem.word .fi k))
    simp only [hword, toNat_magnitude_of_exactRoot hm, ← squareSum_eq]
    exact ⟨by exact_mod_cast hle, by exact_mod_cast hlt⟩
  case signRe => exact magnitude_congr_natAbs (natAbs_sext_neg re) rfl c
  case signIm => exact magnitude_congr_natAbs rfl (natAbs_sext_neg im) c

/-! ## The interpolation

With neighbours below the peak the denominator is negative and more than twice the numerator in size. -/

section Interpolation
variable {left peak right : Int}

/-- The offset from the bin, a Fix. -/
def interpOffset (left peak right : Int) : Int := ((left - right) * 2 ^ 15).tdiv (2 * (left + right - 2 * peak))

theorem interpOffset_eq (left peak right : Int) :
    interpOffset left peak right = ((right - left) * 2 ^ 14).tdiv (2 * peak - left - right) := by
  have hnum : (left - right) * 2 ^ 15 = -(2 * ((right - left) * 2 ^ 14)) := by ring
  have hden : 2 * (left + right - 2 * peak) = -(2 * (2 * peak - left - right)) := by ring
  rw [interpOffset, hnum, hden, Int.neg_tdiv_neg, Int.mul_tdiv_mul_of_pos _ _ two_pos]

theorem interpOffset_sign (hl : left < peak) (hr : right < peak) :
    (left < right → 0 ≤ interpOffset left peak right) ∧ (right < left → interpOffset left peak right ≤ 0) := by
  rw [interpOffset_eq]
  refine ⟨fun h => Int.tdiv_nonneg (by omega) (by omega), fun h => ?_⟩
  have hneg := Int.tdiv_nonneg (a := (left - right) * 2 ^ 14) (b := 2 * peak - left - right) (by omega) (by omega)
  have hflip : (right - left) * 2 ^ 14 = -((left - right) * 2 ^ 14) := by ring
  rw [hflip, Int.neg_tdiv]
  omega

theorem interpOffset_bounds (hl : left < peak) (hr : right < peak) :
    -16384 < interpOffset left peak right ∧ interpOffset left peak right < 16384 := by
  have hden : 0 < 2 * peak - left - right := by omega
  have habs : (interpOffset left peak right).natAbs < 16384 := by
    rw [interpOffset_eq, Int.natAbs_tdiv]
    refine Nat.div_lt_of_lt_mul ?_
    rw [Int.natAbs_mul]
    have hsmaller : (right - left).natAbs < (2 * peak - left - right).natAbs := by omega
    have hscale : ((2 : Int) ^ 14).natAbs = 16384 := rfl
    rw [hscale]
    omega
  omega

theorem interpDen_toInt (hl0 : 0 ≤ left) (hl : left < peak) (hr0 : 0 ≤ right) (hr : right < peak) (hp : peak ≤ 2 ^ 29) :
    (interpDen left peak right).toInt = 2 * (left + right - 2 * peak) :=
  sext_wrap32 (by omega) (by omega)

end Interpolation

/-- The width of a bin and the bins of half the buffer make up half the sample rate. -/
theorem half_bufLen_mul_binHz {c : Config} (h : c.sizesOk) :
    bufLen c / 2 * 2 ^ 15 * binHz c = c.sampleRateHz * 2 ^ 14 * 2 ^ 15 := by
  obtain ⟨⟨hlo, hhi⟩, _⟩ := h
  have hlog : c.log2n - 1 + 1 = c.log2n := by omega
  have hhalf : bufLen c / 2 = 2 ^ (c.log2n - 1) := by
    rw [bufLen, ← hlog, pow_succ, Nat.mul_div_cancel _ two_pos, hlog]
  have hpow : 2 ^ (c.log2n - 1) * 2 ^ (15 - c.log2n) = 2 ^ 14 := by
    rw [← pow_add]
    congr 1
    omega
  calc bufLen c / 2 * 2 ^ 15 * binHz c
      = c.sampleRateHz * (2 ^ (c.log2n - 1) * 2 ^ (15 - c.log2n)) * 2 ^ 15 := by rw [hhalf, binHz]; ring
    _ = c.sampleRateHz * 2 ^ 14 * 2 ^ 15 := by rw [hpow]

theorem binHz_bounds {c : Config} (h : c.sizesOk) : 0 < binHz c ∧ binHz c < 2 ^ 31 := by
  obtain ⟨⟨hlo, hhi⟩, ⟨hpos, hrate⟩, _⟩ := h
  have hwidth : 2 ^ (15 - c.log2n) ≤ 2 ^ 13 := Nat.pow_le_pow_right two_pos (by omega)
  refine ⟨Nat.mul_pos hpos (Nat.two_pow_pos _), ?_⟩
  calc binHz c ≤ c.sampleRateHz * 2 ^ 13 := Nat.mul_le_mul_left _ hwidth
    _ < 2 ^ 31 := by omega

/-- A position between bin 0 and half the buffer, in hertz: below half the sample rate. -/
theorem scaled_position_bounds {c : Config} (h : c.sizesOk) {x : Int} (hge : 0 ≤ x) (hlt : x < (bufLen c / 2 : Nat) * 2 ^ 15) :
    0 ≤ x * (binHz c : Nat) / 2 ^ 15 ∧ x * (binHz c : Nat) / 2 ^ 15 < (c.sampleRateHz : Int) * 2 ^ 14 := by
  obtain ⟨hpos, _⟩ := binHz_bounds h
  have hpos' : (0 : Int) < (binHz c : Nat) := by exact_mod_cast hpos
  have hhalf : ((bufLen c / 2 : Nat) : Int) * 2 ^ 15 * (binHz c : Nat) = (c.sampleRateHz : Int) * 2 ^ 14 * 2 ^ 15 := by
    exact_mod_cast half_bufLen_mul_binHz h
  have hprod := mul_lt_mul_of_pos_right hlt hpos'
  have hprod' := mul_nonneg hge hpos'.le
  constructor
  · omega
  · rw [hhalf] at hprod
    omega

/-- Settles O20: nothing wraps, so the estimate is the floor of position times width, and the position lies strictly
between half a bin and half the buffer. -/
theorem interpolationStaysWithinHalfABin : Obligations.InterpolationStaysWithinHalfABin := by
  refine ⟨fun s => rfl, fun c bin left peak right hc hbin hbin' hl0 hl hr0 hr hp => ?_⟩
  obtain ⟨hsize, _, _⟩ := hc
  have hden := interpDen_toInt hl0 hl hr0 hr hp
  have hne : interpDen left peak right ≠ 0 := fun h0 => by
    have hzero : (interpDen left peak right).toInt = 0 := by rw [h0]; rfl
    omega
  obtain ⟨hdlo, hdhi⟩ := interpOffset_bounds hl hr
  obtain ⟨hright, hleft⟩ := interpOffset_sign hl hr
  have hlen := bufLen_le hsize
  obtain ⟨hbpos, hblt⟩ := binHz_bounds hsize
  have hrate : c.sampleRateHz < 131072 := by
    obtain ⟨_, ⟨_, hlt⟩, _⟩ := hsize
    exact hlt
  have hnum : (wrap32 (left - right)).toInt = left - right := sext_wrap32 (by omega) (by omega)
  have hdelta : sext (BitVec.ofInt 32 (((wrap32 (left - right)).toInt * 2 ^ 15).tdiv (interpDen left peak right).toInt)) =
      interpOffset left peak right := by
    rw [hnum, hden]
    exact sext_wrap32 (by unfold interpOffset at hdlo; omega) (by unfold interpOffset at hdhi; omega)
  have hpos : sext (i2fx bin) = (bin : Int) * 2 ^ 15 := (i2fx_toInt_eq_iff bin).2 (by omega)
  have hplace : (wrap32 (sext (i2fx bin) + interpOffset left peak right)).toInt =
      (bin : Int) * 2 ^ 15 + interpOffset left peak right := by
    rw [hpos]
    exact sext_wrap32 (by omega) (by omega)
  have hwidth : (wrap32 (binHz c)).toInt = binHz c := sext_wrap32 (by omega) (by omega)
  obtain ⟨hge, hlt⟩ := scaled_position_bounds (x := (bin : Int) * 2 ^ 15 + interpOffset left peak right) hsize
    (by omega) (by omega)
  have hest : (fxmul (wrap32 (sext (i2fx bin) + interpOffset left peak right)) (wrap32 (binHz c))).toInt =
      ((bin : Int) * 2 ^ 15 + interpOffset left peak right) * (binHz c : Nat) / 2 ^ 15 := by
    rw [fxmul_eq, hplace, hwidth]
    exact sext_wrap32 (by omega) (by omega)
  rw [← hdelta] at hest
  refine ⟨_, interpolate_of_den_ne hne c bin, hdlo, hdhi, hright, hleft, ?_, ?_, ?_⟩
  · rw [hest, hdelta]
    rfl
  · rw [hest, hdelta]
    exact hge
  · rw [hest, hdelta]
    exact hlt

end Sys2Proof.Machine
end

section
/-!
The smoother on an estimate in its band (42_smoother.md R155) and on an estimate that repeats (section 3).
-/
namespace Sys2Proof.Machine

/-! ## An estimate in the band -/

theorem smooth_in_band {f : Word} {s : State} (hin : ¬isOutlier f s) (hcur : s.cursor < s.cfg.rollingItems) :
    ∃ m, Memory.store s.cfg s.mem .hist s.cursor f = .ok m ∧
      smooth f s = .ok (recompute { s with mem := m, outcnt := 0, cursor := (s.cursor + 1) % s.cfg.rollingItems }) := by
  rcases smooth_cases f s with ⟨hout, _⟩ | ⟨hout, _⟩ | ⟨_, _, hjoin⟩ | ⟨hout, _⟩ | ⟨_, hpast, _⟩
  · exact absurd hout hin
  · exact absurd hout hin
  · exact hjoin
  · exact absurd hout hin
  · omega

/-- Settles O23: the call is the checked write of HIST[CURSOR] and RECOMPUTE, and the write's rules say the rest. -/
theorem inBoundsEstimateJoinsTheHistory : Obligations.InBoundsEstimateJoinsTheHistory := by
  intro f s hlo hhi hcur
  have hin : ¬isOutlier f s := not_or.2 ⟨not_lt.2 hlo, not_lt.2 hhi⟩
  obtain ⟨m, hstore, hsmooth⟩ := smooth_in_band hin hcur
  exact ⟨_, hsmooth, store_word_same hstore, fun _ _ => store_word_other hstore, store_bank hstore, rfl⟩

/-! ## An estimate that repeats -/

theorem smoothTimes_succ {f : Word} {n : Nat} {s t : State} (h : smoothTimes f n s = .ok t) :
    smoothTimes f (n + 1) s = smooth f t := by
  induction n generalizing s with
  | zero =>
    obtain rfl : s = t := Except.ok.inj h
    rw [smoothTimes]
    cases hs : smooth f s <;> rfl
  | succ n ih =>
    rw [smoothTimes] at h ⊢
    cases hs : smooth f s with
    | ok u => rw [hs] at h; exact ih h
    | error e => rw [hs] at h; cases h

/-- The mean of a history whose filled slots all hold the same word is that word. -/
theorem meanOfFilled_eq_of_constant {ws : List Word} {f : Word} (hall : ∀ w ∈ ws, w = f ∨ w = 0) (hf : f ≠ 0)
    (hmem : f ∈ ws) : meanOfFilled ws = f := by
  have hfilled : ∀ w ∈ ws.filter (· ≠ 0), f.toInt ≤ w.toInt ∧ w.toInt ≤ f.toInt := by
    intro w hw
    rw [List.mem_filter] at hw
    obtain ⟨hws, hne⟩ := hw
    rcases hall w hws with rfl | rfl
    · exact ⟨le_rfl, le_rfl⟩
    · simp at hne
  have hne : ws.filter (· ≠ 0) ≠ [] := List.ne_nil_of_mem (List.mem_filter.2 ⟨hmem, by simpa using hf⟩)
  obtain ⟨hge, hle⟩ := meanOfFilled_bounds hne hfilled
  exact BitVec.eq_of_toInt_eq (le_antisymm hle hge)

/-- Before the threshold: the average is still 0 and the estimates so far stand in SIDE. -/
structure Warming (f : Word) (n : Nat) (t : State) : Prop where
  ravg : t.ravg = 0
  rdev : t.rdev = 0
  outcnt : t.outcnt = n
  side : ∀ i < n, t.mem.word .side i = f

/-- From the threshold on: every filled slot of HIST holds the estimate, and so does the average. -/
structure Settled (f : Word) (t : State) : Prop where
  ravg : t.ravg = f
  rdev : t.rdev = fxmul f kDev
  outcnt : t.outcnt = 0
  cursor : t.cursor < t.cfg.rollingItems
  words : ∀ i < t.cfg.rollingItems, t.mem.word .hist i = f ∨ t.mem.word .hist i = 0
  filled : ∃ i < t.cfg.rollingItems, t.mem.word .hist i = f

theorem smooth_cfg {f : Word} {s t : State} (h : smooth f s = .ok t) : t.cfg = s.cfg := by
  rw [smooth_frame h]

/-- Around an average of 0 the band holds 0 alone. -/
theorem isOutlier_of_warming {f : Word} {n : Nat} {t : State} (h : Warming f n t) (hf : 0 < f.toInt) : isOutlier f t := by
  right
  rw [bandHi, h.ravg, h.rdev]
  exact hf

/-- Around an average of up to 50412 Hz the band does not wrap, so it holds the average. -/
theorem not_isOutlier_of_settled {f : Word} {t : State} (h : Settled f t) (hf : 0 < f.toInt)
    (hmax : f.toInt ≤ 50412 * 2 ^ 15) : ¬isOutlier f t := by
  obtain ⟨hdev, hdev'⟩ := fxmul_kDev_bounds hf.le
  have hlo : bandLo t = f.toInt - (fxmul f kDev).toInt := by
    rw [bandLo, h.ravg, h.rdev]
    exact sext_wrap32 (by simp only [sext]; omega) (by simp only [sext]; omega)
  have hhi : bandHi t = f.toInt + (fxmul f kDev).toInt := by
    rw [bandHi, h.ravg, h.rdev]
    exact sext_wrap32 (by simp only [sext]; omega) (by simp only [sext]; omega)
  unfold isOutlier
  rw [hlo, hhi, sext]
  omega

theorem warming_smooth {f : Word} {n : Nat} {s : State} (h : Warming f n s) (hf : 0 < f.toInt)
    (hn : n + 1 < s.cfg.outlierThresh) : ∃ t, smooth f s = .ok t ∧ Warming f (n + 1) t := by
  have hcnt := h.outcnt
  obtain ⟨m, hstore, hsmooth⟩ := smooth_below_threshold (isOutlier_of_warming h hf) (by omega)
  refine ⟨_, hsmooth, h.ravg, h.rdev, by simp only [hcnt], fun i hi => ?_⟩
  rcases Nat.eq_or_lt_of_le (Nat.le_of_lt_succ hi) with rfl | hlt
  · rw [← hcnt]
    exact store_word_same hstore
  · exact (store_word_other hstore (.inr (by omega))).trans (h.side i hlt)

/-- The state of the words of HIST makes the average. -/
theorem settled_mean {f : Word} {m : Memory} {n : Nat} (hf : 0 < f.toInt)
    (hwords : ∀ i < n, m.word .hist i = f ∨ m.word .hist i = 0) (hfilled : ∃ i < n, m.word .hist i = f) :
    meanOfFilled (m.words .hist n) = f := by
  have hne : f ≠ 0 := fun h0 => by
    rw [h0] at hf
    exact absurd hf (by decide)
  refine meanOfFilled_eq_of_constant (fun w hw => ?_) hne ?_
  · obtain ⟨i, hi, rfl⟩ := List.mem_map.1 hw
    exact hwords i (List.mem_range.1 hi)
  · obtain ⟨i, hi, heq⟩ := hfilled
    exact List.mem_map.2 ⟨i, List.mem_range.2 hi, heq⟩

theorem settled_of_warming {f : Word} {n : Nat} {s : State} (hsize : s.cfg.sizesOk) (h : Warming f n s)
    (hf : 0 < f.toInt) (hn : n + 1 = s.cfg.outlierThresh) : ∃ t, smooth f s = .ok t ∧ Settled f t := by
  obtain ⟨_, _, _, _, hitems, ⟨_, hfit⟩, _⟩ := hsize
  have hcnt := h.outcnt
  obtain ⟨t, hsmooth, holder, hnewest, hempty, _, _, _, hframe⟩ := thresholdOutlierAdoptsTheSideBuffer f s
    (isOutlier_of_warming h hf) (by omega) hfit
  have hcfg : t.cfg = s.cfg := smooth_cfg hsmooth
  have hwords : ∀ i < t.cfg.rollingItems, t.mem.word .hist i = f ∨ t.mem.word .hist i = 0 := by
    intro i _
    rcases Nat.lt_trichotomy i s.outcnt with hlt | rfl | hgt
    · exact .inl ((holder i hlt).trans (h.side i (by omega)))
    · exact .inl hnewest
    · exact .inr (hempty i (by omega))
  have hfilled : ∃ i < t.cfg.rollingItems, t.mem.word .hist i = f := ⟨s.outcnt, by rw [hcfg]; omega, hnewest⟩
  have hravg : t.ravg = f := by
    have hmean : t.ravg = meanOfFilled (t.mem.words .hist s.cfg.rollingItems) := by rw [hframe]
    rw [hmean, ← hcfg, settled_mean hf hwords hfilled]
  refine ⟨t, hsmooth, hravg, ?_, by rw [hframe], ?_, hwords, hfilled⟩
  · have hrdev : t.rdev = fxmul t.ravg kDev := congrArg State.rdev hframe
    rw [hrdev, hravg]
  · rw [hframe]
    exact Nat.mod_lt _ hitems

theorem settled_smooth {f : Word} {s : State} (h : Settled f s) (hf : 0 < f.toInt)
    (hmax : f.toInt ≤ 50412 * 2 ^ 15) : ∃ t, smooth f s = .ok t ∧ Settled f t := by
  obtain ⟨m, hstore, hsmooth⟩ := smooth_in_band (not_isOutlier_of_settled h hf hmax) h.cursor
  have hwords : ∀ i < s.cfg.rollingItems, m.word .hist i = f ∨ m.word .hist i = 0 := by
    intro i hi
    by_cases hcur : i = s.cursor
    · exact .inl (hcur ▸ store_word_same hstore)
    · rw [store_word_other hstore (.inr hcur)]
      exact h.words i hi
  have hfilled : ∃ i < s.cfg.rollingItems, m.word .hist i = f := ⟨s.cursor, h.cursor, store_word_same hstore⟩
  have hmean := settled_mean hf hwords hfilled
  exact ⟨_, hsmooth, hmean, congrArg (fxmul · kDev) hmean, rfl, Nat.mod_lt _ (Nat.zero_lt_of_lt h.cursor), hwords,
    hfilled⟩

/-- Settles O25: by induction on the number of calls, the filter is warming below the threshold and settled from it on. -/
theorem repeatedEstimateBecomesTheAverage : Obligations.RepeatedEstimateBecomesTheAverage := by
  intro f s hsize hout hcur havg hdev hf hmax n
  obtain ⟨_, _, _, _, _, ⟨hthresh, _⟩, _⟩ := id hsize
  have hphases : ∃ t, smoothTimes f n s = .ok t ∧ t.cfg = s.cfg ∧
      ((n < s.cfg.outlierThresh ∧ Warming f n t) ∨ (s.cfg.outlierThresh ≤ n ∧ Settled f t)) := by
    induction n with
    | zero => exact ⟨s, rfl, rfl, .inl ⟨hthresh, havg, hdev, hout, fun i hi => absurd hi (Nat.not_lt_zero i)⟩⟩
    | succ n ih =>
      obtain ⟨t, htimes, hcfg, hphase⟩ := ih
      have hnext : ∃ u, smooth f t = .ok u ∧
          ((n + 1 < s.cfg.outlierThresh ∧ Warming f (n + 1) u) ∨ (s.cfg.outlierThresh ≤ n + 1 ∧ Settled f u)) := by
        rcases hphase with ⟨hlt, hwarm⟩ | ⟨hge, hsettled⟩
        · rcases Nat.eq_or_lt_of_le (Nat.succ_le_of_lt hlt) with heq | hlt'
          · obtain ⟨u, hu, hsettled⟩ := settled_of_warming (hcfg ▸ hsize) hwarm hf (by rw [hcfg]; exact heq)
            exact ⟨u, hu, .inr ⟨heq.ge, hsettled⟩⟩
          · obtain ⟨u, hu, hwarm'⟩ := warming_smooth hwarm hf (by rw [hcfg]; exact hlt')
            exact ⟨u, hu, .inl ⟨hlt', hwarm'⟩⟩
        · obtain ⟨u, hu, hsettled'⟩ := settled_smooth hsettled hf hmax
          exact ⟨u, hu, .inr ⟨hge.trans (Nat.le_succ n), hsettled'⟩⟩
      obtain ⟨u, hu, hphase'⟩ := hnext
      exact ⟨u, (smoothTimes_succ htimes).trans hu, (smooth_cfg hu).trans hcfg, hphase'⟩
  obtain ⟨t, htimes, _, ⟨hlt, hwarm⟩ | ⟨hge, hsettled⟩⟩ := hphases
  · exact ⟨t, htimes, fun _ => ⟨hwarm.ravg, hwarm.rdev, hwarm.outcnt⟩, fun hge => absurd hlt (Nat.not_lt.2 hge)⟩
  · exact ⟨t, htimes, fun hlt => absurd hlt (Nat.not_lt.2 hge),
      fun _ => ⟨hsettled.ravg, hsettled.rdev, hsettled.outcnt⟩⟩

end Sys2Proof.Machine
end

section
/-!
The reference SINE (10_state.md R41). `sin(2πk/64)` is the imaginary part of the `k`-th power of `cos(π/32) + i sin(π/32)`,
and the powers of a nearby Gaussian number, which whole numbers give exactly, stay close to it.
-/
namespace Sys2Proof.Machine

/-! ## The first step of the rotation -/

theorem sqrt_mem_of_sq_le {x lo hi l u : ℝ} (hx : l ≤ x ∧ x ≤ u) (hlo : lo ^ 2 ≤ l) (hhi : u ≤ hi ^ 2) (hpos : 0 ≤ hi) :
    lo ≤ √x ∧ √x ≤ hi :=
  ⟨Real.le_sqrt_of_sq_le (hlo.trans hx.1), Real.sqrt_le_iff.2 ⟨hpos, hx.2.trans hhi⟩⟩

/-- The nested root in both components of the rotation. -/
theorem sqrt_two_nested_bounds :
    1.961570560806 ≤ √(2 + √(2 + √2)) ∧ √(2 + √(2 + √2)) ≤ 1.961570560807 := by
  obtain ⟨hlo, hhi⟩ := sqrt_mem_of_sq_le (x := 2) (lo := 1.414213562373) (hi := 1.414213562374) ⟨le_rfl, le_rfl⟩
    (by norm_num) (by norm_num) (by norm_num)
  obtain ⟨hlo, hhi⟩ := sqrt_mem_of_sq_le (x := 2 + √2) (lo := 1.847759065022) (hi := 1.847759065023)
    ⟨add_le_add_right hlo 2, add_le_add_right hhi 2⟩ (by norm_num) (by norm_num) (by norm_num)
  exact sqrt_mem_of_sq_le ⟨add_le_add_right hlo 2, add_le_add_right hhi 2⟩ (by norm_num) (by norm_num) (by norm_num)

theorem cos_pi_div_thirty_two_near : |1068571463 / 2 ^ 30 - Real.cos (Real.pi / 32)| ≤ 1 / 2 ^ 30 := by
  obtain ⟨hlo, hhi⟩ := sqrt_two_nested_bounds
  obtain ⟨hlo, hhi⟩ := sqrt_mem_of_sq_le (x := 2 + √(2 + √(2 + √2))) (lo := 1.9903694533) (hi := 1.9903694534)
    ⟨add_le_add_right hlo 2, add_le_add_right hhi 2⟩ (by norm_num) (by norm_num) (by norm_num)
  rw [Real.cos_pi_div_thirty_two, abs_le]
  constructor <;> linarith

theorem sin_pi_div_thirty_two_near : |105245103 / 2 ^ 30 - Real.sin (Real.pi / 32)| ≤ 1 / 2 ^ 30 := by
  obtain ⟨hlo, hhi⟩ := sqrt_two_nested_bounds
  obtain ⟨hlo, hhi⟩ := sqrt_mem_of_sq_le (x := 2 - √(2 + √(2 + √2))) (lo := 0.1960342805) (hi := 0.1960342807)
    ⟨sub_le_sub_left hhi 2, sub_le_sub_left hlo 2⟩ (by norm_num) (by norm_num) (by norm_num)
  rw [Real.sin_pi_div_thirty_two, abs_le]
  constructor <;> linarith

/-! ## Powers of two close complex numbers -/

theorem norm_pow_sub_pow_le_mul {z w : ℂ} (hz : ‖z‖ ≤ 1) (hw : ‖w‖ ≤ 1) (k : ℕ) : ‖z ^ k - w ^ k‖ ≤ k * ‖z - w‖ := by
  induction k with
  | zero => simp
  | succ k ih =>
    have hsplit : z ^ (k + 1) - w ^ (k + 1) = z * (z ^ k - w ^ k) + (z - w) * w ^ k := by ring
    have hfirst : ‖z * (z ^ k - w ^ k)‖ ≤ k * ‖z - w‖ := by
      rw [norm_mul]
      exact (mul_le_of_le_one_left (norm_nonneg _) hz).trans ih
    have hsecond : ‖(z - w) * w ^ k‖ ≤ ‖z - w‖ := by
      rw [norm_mul, norm_pow]
      exact mul_le_of_le_one_right (norm_nonneg _) (pow_le_one₀ (norm_nonneg _) hw)
    calc ‖z ^ (k + 1) - w ^ (k + 1)‖ ≤ ‖z * (z ^ k - w ^ k)‖ + ‖(z - w) * w ^ k‖ := hsplit ▸ norm_add_le _ _
      _ ≤ k * ‖z - w‖ + ‖z - w‖ := add_le_add hfirst hsecond
      _ = (k + 1 : ℕ) * ‖z - w‖ := by push_cast; ring

/-- The rotation by `π/32`. -/
noncomputable def rotation : ℂ := ⟨Real.cos (Real.pi / 32), Real.sin (Real.pi / 32)⟩

/-- The Gaussian number, over `2^30`, beside the rotation. -/
noncomputable def rotationNear : ℂ := ⟨1068571463 / 2 ^ 30, 105245103 / 2 ^ 30⟩

/-- The real and imaginary part of the powers of the Gaussian number, the `k`-th over `2^(30k)`. -/
def gaussPower : Nat → Int × Int
  | 0 => (1, 0)
  | k + 1 =>
    ((gaussPower k).1 * 1068571463 - (gaussPower k).2 * 105245103,
      (gaussPower k).1 * 105245103 + (gaussPower k).2 * 1068571463)

theorem rotationNear_pow (k : ℕ) : rotationNear ^ k = ⟨(gaussPower k).1 / (2 ^ 30) ^ k, (gaussPower k).2 / (2 ^ 30) ^ k⟩ := by
  induction k with
  | zero => apply Complex.ext <;> simp [gaussPower]
  | succ k ih =>
    rw [pow_succ, ih, rotationNear]
    apply Complex.ext
    · simp only [Complex.mul_re, gaussPower]
      push_cast
      field_simp
      ring
    · simp only [Complex.mul_im, gaussPower]
      push_cast
      field_simp
      ring

theorem rotation_pow_im (k : ℕ) : (rotation ^ k).im = Real.sin (k * (Real.pi / 32)) := by
  have hrotation : rotation = Complex.cos (Real.pi / 32 : ℝ) + Complex.sin (Real.pi / 32 : ℝ) * Complex.I := by
    rw [← Complex.ofReal_cos, ← Complex.ofReal_sin, ← Complex.mk_eq_add_mul_I]
    rfl
  rw [hrotation, Complex.cos_add_sin_mul_I_pow, ← Complex.ofReal_natCast, ← Complex.ofReal_mul, ← Complex.ofReal_cos,
    ← Complex.ofReal_sin, ← Complex.mk_eq_add_mul_I]

theorem norm_rotation : ‖rotation‖ ≤ 1 := by
  rw [Complex.norm_def, Real.sqrt_le_one, Complex.normSq_apply, rotation]
  nlinarith [Real.sin_sq_add_cos_sq (Real.pi / 32)]

theorem norm_rotationNear : ‖rotationNear‖ ≤ 1 := by
  rw [Complex.norm_def, Real.sqrt_le_one, Complex.normSq_apply, rotationNear]
  norm_num

theorem norm_rotationNear_sub : ‖rotationNear - rotation‖ ≤ 1 / 2 ^ 29 := by
  have hcos : |(rotationNear - rotation).re| ≤ 1 / 2 ^ 30 := cos_pi_div_thirty_two_near
  have hsin : |(rotationNear - rotation).im| ≤ 1 / 2 ^ 30 := sin_pi_div_thirty_two_near
  have hnorm := Complex.norm_le_abs_re_add_abs_im (rotationNear - rotation)
  linarith

/-- In whole numbers: every entry is within half a unit of the power's imaginary part, by 2^-8 to spare. -/
theorem sineAt_near_gaussPower : ∀ k < 64,
    |sineAt refConfig k * (2 ^ 30) ^ k - (gaussPower k).2 * 32768| * 2 ^ 8 ≤ (2 ^ 7 - 1) * (2 ^ 30) ^ k := by
  decide

/-- Settles O58: the entry is near the power's imaginary part, and that is near the sine. -/
theorem sineRomIsTheRoundedSine : Obligations.SineRomIsTheRoundedSine := by
  intro k hk
  have hk64 : k < 64 := hk
  have hscale : (0 : ℝ) < (2 ^ 30) ^ k := by positivity
  have hangle : 2 * Real.pi * k / bufLen refConfig = k * (Real.pi / 32) := by
    have hlen : bufLen refConfig = 64 := rfl
    rw [hlen]
    push_cast
    ring
  have hpower : |((gaussPower k).2 : ℝ) / (2 ^ 30) ^ k - Real.sin (k * (Real.pi / 32))| ≤ 1 / 2 ^ 23 := by
    have him := Complex.abs_im_le_norm (rotationNear ^ k - rotation ^ k)
    have hnorm := norm_pow_sub_pow_le_mul norm_rotationNear norm_rotation k
    have hcount : (k : ℝ) ≤ 64 := by exact_mod_cast hk64.le
    have hprod : (k : ℝ) * ‖rotationNear - rotation‖ ≤ 64 * (1 / 2 ^ 29) :=
      mul_le_mul hcount norm_rotationNear_sub (norm_nonneg _) (by norm_num)
    have hbound := (him.trans hnorm).trans hprod
    rw [Complex.sub_im, rotation_pow_im, rotationNear_pow] at hbound
    exact hbound.trans_eq (by norm_num)
  have htable : |(sineAt refConfig k : ℝ) - (gaussPower k).2 / (2 ^ 30) ^ k * 32768| ≤ 1 / 2 - 1 / 2 ^ 8 := by
    have hcast : |(sineAt refConfig k : ℝ) * (2 ^ 30) ^ k - (gaussPower k).2 * 32768| * 2 ^ 8 ≤
        (2 ^ 7 - 1) * (2 ^ 30) ^ k := by
      exact_mod_cast sineAt_near_gaussPower k hk64
    have hfactor : (sineAt refConfig k : ℝ) - (gaussPower k).2 / (2 ^ 30) ^ k * 32768 =
        ((sineAt refConfig k : ℝ) * (2 ^ 30) ^ k - (gaussPower k).2 * 32768) / (2 ^ 30) ^ k := by
      field_simp
    rw [hfactor, abs_div, abs_of_pos hscale, div_le_iff₀ hscale]
    generalize ((2 : ℝ) ^ 30) ^ k = scale at hcast ⊢
    linarith
  rw [hangle]
  rw [abs_le] at hpower htable ⊢
  constructor <;> linarith

end Sys2Proof.Machine
end
